-- ==== Sys2Proof/Word.lean ====
section
/-! DEFINITION. Sys2Proof/Word.lean: the bit-vector types of the block's ports and formats.
Bits are numbered from 0 at the least significant bit (00_scope.md R7). -/

namespace Sys2Proof

/-- The 32-bit operand and result ports, and a binary32 pattern (00_scope.md R6, 40 R81). -/
abbrev Word := BitVec 32

/-- A binary16 pattern (40 R80), and one entry of ELUT (10_state.md R27). -/
abbrev Half := BitVec 16

/-- The 4-bit operation code (30_encoding.md R61). -/
abbrev OpCode := BitVec 4

/-- The 36-bit request word `REQ` (30_encoding.md R60). -/
abbrev Req := BitVec 36

end Sys2Proof
end

