-- ==== Sys2Proof/Config.lean ====
section
/-! DEFINITION. Sys2Proof/Config.lean: what a build fixes (00_scope.md R6) and the draws, the values
the spec leaves open (00_scope.md R12). -/

namespace Sys2Proof

/-- `TABLE_IMPL` (00_scope.md R6, 43 R158): physical tables, or table operations computed by the
direct datapath. OPEN in the spec. -/
inductive TableImpl where
  | rom
  | computed
deriving DecidableEq, Repr

/-- The two OPEN parameters of 00_scope.md R6. They are fixed when the block is built; no step
changes them. A model takes them as arguments: here they stand in State, so that every statement
over all states holds for every choice of them. -/
structure Params where
  /-- `LATENCY`: clock cycles from request to response (70 R194, R195). -/
  latency : Nat
  /-- `TABLE_IMPL` (43 R158). -/
  tableImpl : TableImpl
deriving DecidableEq, Repr

namespace Config

/-- `LATENCY` at its reference value 1 (00_scope.md R6).
DESIGN CHOICE (log 2): `TABLE_IMPL` has no reference value in the spec; `rom` is taken. -/
def referenceParams : Params := ⟨1, .rom⟩

/-- The 32-bit draw number `n`: a free value, no law is known of it (00_scope.md R12). -/
opaque drawY : Nat → Word

/-- The draw of an illegal bit, number `n` (10 R32, 70 R194, R197). -/
opaque drawIll : Nat → Bool

/-- The draw of a valid bit, number `n`: only before the first reset (10 R33). -/
opaque drawValid : Nat → Bool

end Config

end Sys2Proof
end

