-- ==== Sys2Proof/Syntax.lean ====
section
/-! DEFINITION. Sys2Proof/Syntax.lean: the operations, one constructor per row of
spec/opcode_table.json (30_encoding.md R64). Every request carries the whole 32-bit operand `A`;
what an operation reads of it is its meaning's business (30 R62). -/

namespace Sys2Proof

inductive Instr where
  /-- `F32TOU32`, op 0x0 (40 R86). -/
  | f32tou32 (a : Word)
  /-- `U32TOF32`, op 0x1 (40 R87). -/
  | u32tof32 (a : Word)
  /-- `F16TOU16`, op 0x2 (40 R88). -/
  | f16tou16 (a : Word)
  /-- `U16TOF16`, op 0x3 (40 R89). -/
  | u16tof16 (a : Word)
  /-- `H2F`, op 0x4, alias `HALF_TO_FLOAT` (41 R107). -/
  | h2f (a : Word)
  /-- `H2F.LUT`, op 0x5 (41 R108). -/
  | h2fLut (a : Word)
  /-- `F2H`, op 0x6, alias `FLOAT_TO_HALF` (42 R134). -/
  | f2h (a : Word)
  /-- `F2H.FAST`, op 0x7 (42 R135). -/
  | f2hFast (a : Word)
  /-- The row `(reserved)`, op 0x8 to 0xF (60 R171). The op code and the operand are kept only so
  that a word can be encoded again: the block does not read the operand. -/
  | reserved (op : OpCode) (a : Word)
deriving DecidableEq, Repr

end Sys2Proof
end

