-- ==== Sys2Proof/WellFormed.lean ====
section
/-! DEFINITION. Sys2Proof/WellFormed.lean: which terms of Instr some request word stands for. -/

namespace Sys2Proof

/-- A reserved request carries a reserved op code, that is one with `op[3] = 1` (30 R64, R65).
Every operand is allowed for every operation: `A[31:16]` of a 16-bit-input operation is
"don't care", not reserved (30 R62, R66). -/
def Instr.wf : Instr → Bool
  | .f32tou32 _ => true
  | .u32tof32 _ => true
  | .f16tou16 _ => true
  | .u16tof16 _ => true
  | .h2f _ => true
  | .h2fLut _ => true
  | .f2h _ => true
  | .f2hFast _ => true
  | .reserved op _ => op.getLsbD 3

end Sys2Proof
end

