-- ==== Sys2Proof/Decode.lean ====
section
/-! DEFINITION. Sys2Proof/Decode.lean: the request word `REQ = op ++ a` (30_encoding.md R60, R61),
the opcode map with its match and mask columns (R64), the decoder, which is total on the 36-bit
words (R65), and the encoder, written from the same map. No state takes part (R67). -/

namespace Sys2Proof

/-- The op field, `REQ[35:32]` (30 R61). -/
def Req.op (w : Req) : OpCode := w.extractLsb' 32 4

/-- The operand field, `REQ[31:0]` (30 R61). -/
def Req.operand (w : Req) : Word := w.extractLsb' 0 32

/-- The request word of an op code and an operand (30 R60). -/
def request (op : OpCode) (a : Word) : Req := op ++ a

/-- The opcode map (30 R64): the op code alone selects the operation, the operand never does (R65). -/
def decodeOp (op : OpCode) (a : Word) : Instr :=
  match op.toNat with
  | 0x0 => .f32tou32 a
  | 0x1 => .u32tof32 a
  | 0x2 => .f16tou16 a
  | 0x3 => .u16tof16 a
  | 0x4 => .h2f a
  | 0x5 => .h2fLut a
  | 0x6 => .f2h a
  | 0x7 => .f2hFast a
  | _ => .reserved op a

/-- The decoder: total on every request word (30 R65). A reserved code decodes to the reserved
request, whose meaning is `IllegalOp` (30 R66); nothing is rejected here. -/
def decode (w : Req) : Instr := decodeOp w.op w.operand

/-- Why a string of bits is no request word. -/
inductive DecodeError where
  /-- A bit above bit 35 is set: every request is 36 bits long (30 R60, R67). -/
  | widerThanRequest
deriving DecidableEq, Repr

/-- The decoder on any number: rejects by name what is wider than a request word. -/
def decodeNat (w : Nat) : Except DecodeError Instr :=
  if w < 2 ^ 36 then .ok (decode (BitVec.ofNat 36 w)) else .error .widerThanRequest

/-- What this decoder reads from a row's word of `nbits` bits numbered from the least significant
bit, every bit above them 0. There is one 36-bit word and no byte order (30 R60, 20 R42). DESIGN CHOICE (log 7). -/
def decodeTableWord (nbits w : Nat) : Option Instr :=
  match decodeNat (w % 2 ^ nbits) with
  | .ok i => some i
  | .error _ => none

/-- The op code of an operation (30 R64). -/
def Instr.opCode : Instr → OpCode
  | .f32tou32 _ => 0x0#4
  | .u32tof32 _ => 0x1#4
  | .f16tou16 _ => 0x2#4
  | .u16tof16 _ => 0x3#4
  | .h2f _ => 0x4#4
  | .h2fLut _ => 0x5#4
  | .f2h _ => 0x6#4
  | .f2hFast _ => 0x7#4
  | .reserved op _ => op

/-- The operand of a request (30 R61). -/
def Instr.operand : Instr → Word
  | .f32tou32 a => a
  | .u32tof32 a => a
  | .f16tou16 a => a
  | .u16tof16 a => a
  | .h2f a => a
  | .h2fLut a => a
  | .f2h a => a
  | .f2hFast a => a
  | .reserved _ a => a

/-- The encoder (30 R60, R64). -/
def encode (i : Instr) : Req := request i.opCode i.operand

/-- One row of the opcode map: a word `w` is of the row when `w &&& mask = value` (30 R64). -/
structure OpRow where
  mnemonic : String
  value : Req
  mask : Req
deriving DecidableEq, Repr

/-- The match and mask columns of 30_encoding.md R64. -/
def opRows : List OpRow :=
  [⟨"F32TOU32", 0x000000000#36, 0xF00000000#36⟩,
   ⟨"U32TOF32", 0x100000000#36, 0xF00000000#36⟩,
   ⟨"F16TOU16", 0x200000000#36, 0xF00000000#36⟩,
   ⟨"U16TOF16", 0x300000000#36, 0xF00000000#36⟩,
   ⟨"H2F", 0x400000000#36, 0xF00000000#36⟩,
   ⟨"H2F.LUT", 0x500000000#36, 0xF00000000#36⟩,
   ⟨"F2H", 0x600000000#36, 0xF00000000#36⟩,
   ⟨"F2H.FAST", 0x700000000#36, 0xF00000000#36⟩,
   ⟨"(reserved)", 0x800000000#36, 0x800000000#36⟩]

/-- Whether a word is of a row. -/
def OpRow.covers (r : OpRow) (w : Req) : Bool := w &&& r.mask == r.value

/-- The index of an operation's row in `opRows`. -/
def Instr.rowIndex : Instr → Nat
  | .f32tou32 _ => 0
  | .u32tof32 _ => 1
  | .f16tou16 _ => 2
  | .u16tof16 _ => 3
  | .h2f _ => 4
  | .h2fLut _ => 5
  | .f2h _ => 6
  | .f2hFast _ => 7
  | .reserved _ _ => 8

end Sys2Proof
end

