-- ==== Sys2Proof/Machine/Flags.lean ====
section
/-! DEFINITION. Sys2Proof/Machine/Flags.lean: the outcome of an operation, its `Y` and its `ILL`.
The block has no flags and no condition codes (10_state.md R25), and no IEEE exception flag
(60_exceptions.md R172): the per-response bit `ILL` is all there is. -/

namespace Sys2Proof.Machine

/-- What the operation layer answers for one request (00_scope.md R10). -/
inductive OpResult where
  /-- An assigned operation: its `Y`, and `ILL = 0` (30 R63, 60 R170). -/
  | value (y : Word)
  /-- `raise IllegalOp`: `ILL = 1` and `Y` a draw (60 R171). -/
  | illegalOp
deriving DecidableEq, Repr

/-- The bit `ILL` of an outcome (30 R63, 60 R170, R171). -/
def OpResult.ill : OpResult → Bool
  | .value _ => false
  | .illegalOp => true

end Sys2Proof.Machine
end

