-- ==== Sys2Proof/Machine/Operands.lean ====
section
/-! DEFINITION. Sys2Proof/Machine/Operands.lean: operand and result assembly (30_encoding.md R62,
R63). There are no immediates, no register specifiers and no addressing modes (R62, R71). -/

namespace Sys2Proof.Machine

/-- The operand of a 16-bit-input operation: `A[15:0]`; `A[31:16]` is ignored (30 R62). -/
def lowHalf (a : Word) : Half := a.extractLsb' 0 16

/-- The result of a 16-bit-result operation: `zext_32(r16)` (30 R63). -/
def zext32 (r : Half) : Word := r.setWidth 32

end Sys2Proof.Machine
end

