-- ==== Sys2Proof/Machine/Formats.lean ====
section
/-! DEFINITION. Sys2Proof/Machine/Formats.lean: the fields and classes of binary16 and binary32
(40_formats_reinterpret.md R80 to R83, R85), and `msb` (00_scope.md R8). -/

namespace Sys2Proof.Machine

/-- `h[15]` (40 R80). -/
def halfSign (h : Half) : BitVec 1 := h.extractLsb' 15 1

/-- `h[14:10]`, bias 15 (40 R80). -/
def halfExp (h : Half) : BitVec 5 := h.extractLsb' 10 5

/-- `h[9:0]` (40 R80). -/
def halfMant (h : Half) : BitVec 10 := h.extractLsb' 0 10

/-- `f[31]` (40 R81). -/
def floatSign (f : Word) : BitVec 1 := f.extractLsb' 31 1

/-- `f[30:23]`, bias 127 (40 R81). -/
def floatExp (f : Word) : BitVec 8 := f.extractLsb' 23 8

/-- `f[22:0]` (40 R81). -/
def floatMant (f : Word) : BitVec 23 := f.extractLsb' 0 23

/-- The concatenation of sign, exponent and mantissa of a float (00 R7, 40 R81). -/
def packFloat (s : BitVec 1) (e : BitVec 8) (m : BitVec 23) : Word := s ++ e ++ m

/-- `S << 15`: a half's sign bit in place (42 R120). -/
def signInPlace (s : BitVec 1) : Half := s.setWidth 16 <<< 15

/-- The index of the highest set bit of a non-zero number (00 R8). -/
def msb (m : Nat) : Nat := m.log2

/-- The classes of R82 and R83. -/
inductive FloatClass where
  | zero
  | subnormal
  | normal
  | infinity
  | nan
deriving DecidableEq, Repr

/-- The class of a binary16 pattern (40 R82). -/
def halfClass (h : Half) : FloatClass :=
  if halfExp h = 0 then
    if halfMant h = 0 then .zero else .subnormal
  else if halfExp h = 31 then
    if halfMant h = 0 then .infinity else .nan
  else .normal

/-- The class of a binary32 pattern (40 R83). -/
def floatClass (f : Word) : FloatClass :=
  if floatExp f = 0 then
    if floatMant f = 0 then .zero else .subnormal
  else if floatExp f = 255 then
    if floatMant f = 0 then .infinity else .nan
  else .normal

/-- The quiet bit of a half NaN, `h[9]` (40 R85). No operation tests it. -/
def halfQuiet (h : Half) : Bool := h.getLsbD 9

/-- The quiet bit of a float NaN, `f[22]` (40 R85). No operation tests it. -/
def floatQuiet (f : Word) : Bool := f.getLsbD 22

end Sys2Proof.Machine
end

