-- ==== Sys2Proof/Machine/Expand.lean ====
section
/-! DEFINITION. Sys2Proof/Machine/Expand.lean: half to float, the function `expand`
(41_half_to_float.md R100 to R105). -/

namespace Sys2Proof.Machine

/-- A subnormal half, renormalised (41 R102): `p = msb(m)`, exponent `p + 103`, the leading 1 of `m`
removed and the rest left-aligned in 23 bits. -/
def expandSubnormal (s : BitVec 1) (m : Nat) : Word :=
  packFloat s (BitVec.ofNat 8 (msb m + 103))
    (BitVec.ofNat 23 ((m <<< (23 - msb m)) &&& 0x7FFFFF))

/-- `expand(h)`, the complete definition of 41 R100, its cases in the rule's order. -/
def expand (h : Half) : Word :=
  let s := halfSign h
  let e := (halfExp h).toNat
  let m := (halfMant h).toNat
  if e = 0 ∧ m = 0 then
    packFloat s 0x00#8 0#23
  else if e = 0 then
    expandSubnormal s m
  else if e = 31 ∧ m = 0 then
    packFloat s 0xFF#8 0#23
  else if e = 31 then
    packFloat s 0xFF#8 (halfMant h ++ 0#13)
  else
    packFloat s (BitVec.ofNat 8 (e + 112)) (halfMant h ++ 0#13)

end Sys2Proof.Machine
end

