-- ==== Sys2Proof/Machine/Tables.lean ====
section
/-! DEFINITION. Sys2Proof/Machine/Tables.lean: the contents of the two read-only tables
(43_tables.md R150, R152), defined as functions (R155). They are there from power-up and nothing
writes them (R154; 10_state.md R27, R28). DEDUCED (log 9): no field of State holds them. -/

namespace Sys2Proof.Machine

/-- The exponent-dispatch table with half exponents `1..bound` present (43 R150, R156). Entry `i`:
`s = i[8]`, `E = i[7:0]`, `e = E - 112`. -/
def elutUpTo (bound : Int) (i : BitVec 9) : Half :=
  let s := i.extractLsb' 8 1
  let e : Int := ((i.extractLsb' 0 8).toNat : Int) - 112
  if 1 ≤ e ∧ e ≤ bound then signInPlace s ||| BitVec.ofNat 16 (e.toNat <<< 10) else 0x0000#16

/-- ELUT, 512 entries of 16 bits: the bound is 29 (43 R150). -/
def elut (i : BitVec 9) : Half := elutUpTo 29 i

/-- HLUT, 65536 entries of 32 bits: `HLUT[h] = expand(h)` (43 R152). -/
def hlut (h : BitVec 16) : Word := expand h

end Sys2Proof.Machine
end

