-- ==== Sys2Proof/Machine/Reduce.lean ====
section
/-! DEFINITION. Sys2Proof/Machine/Reduce.lean: float to half, the slow path `reduce_direct`
(42_float_to_half.md R120 to R128) and the fast path `reduce_fast` (R129 to R133). Arithmetic is on
numbers that do not wrap (00_scope.md R8, 42 R142). -/

namespace Sys2Proof.Machine

/-- `sgn` of 42 R120. -/
def reduceSign (A : Word) : Half := signInPlace (floatSign A)

/-- The signed `e = E - 112` of 42 R120. -/
def reduceExp (A : Word) : Int := ((floatExp A).toNat : Int) - 112

/-- The rounded significand of a subnormal result, `r` of 42 R122, for the mantissa `M` and the shift
`t = 14 - e`. -/
def roundSubnormal (M t : Nat) : Nat :=
  let m24 := M ||| 0x800000
  (m24 + (2 ^ (t - 1) - 1) + ((m24 >>> t) &&& 1)) >>> t

/-- The mantissa of a half NaN: the ten high payload bits, or 1 when they are all zero (42 R124). -/
def nanMantissa (M : Nat) : Half :=
  let mh := M >>> 13
  BitVec.ofNat 16 mh ||| (if mh = 0 then 1#16 else 0#16)

/-- `r = M + 0x0FFF + M[13]` (42 R125): also the sum of the fast path (42 R131). -/
def roundSum (M : Nat) : Nat := M + 0x0FFF + ((M >>> 13) &&& 1)

/-- Infinity when the exponent exceeds 30, else the half of `e` and `r` (42 R127). -/
def packOrOverflow (sgn : Half) (e : Int) (r : Nat) : Half :=
  if e > 30 then sgn ||| 0x7C00#16
  else sgn ||| BitVec.ofNat 16 ((e.toNat <<< 10) ||| (r >>> 13))

/-- `reduce_direct(A)`, the complete definition of 42 R128, its cases in the rule's order. -/
def reduceDirect (A : Word) : Half :=
  let E := (floatExp A).toNat
  let M := (floatMant A).toNat
  let sgn := reduceSign A
  let e := reduceExp A
  if e ≤ 0 then
    if e < -10 then sgn
    else sgn ||| BitVec.ofNat 16 (roundSubnormal M (14 - e).toNat)
  else if E = 255 then
    if M = 0 then sgn ||| 0x7C00#16
    else sgn ||| 0x7C00#16 ||| nanMantissa M
  else
    let r := roundSum M
    if r &&& 0x800000 ≠ 0 then packOrOverflow sgn (e + 1) 0
    else packOrOverflow sgn e r

/-- The fast path of 42 R133 over a dispatch table: the zero test on the bits (R129), the dispatch
(R130), the common case (R131), the fallback (R132). -/
def reduceByTable (lut : BitVec 9 → Half) (A : Word) : Half :=
  if A.extractLsb' 0 31 = 0 then A.extractLsb' 16 16
  else
    let d := lut (A.extractLsb' 23 9)
    if d ≠ 0 then
      BitVec.ofNat 16 (d.toNat + (roundSum (floatMant A).toNat >>> 13))
    else reduceDirect A

/-- `reduce_fast(A)` (42 R133): the table is ELUT. -/
def reduceFast (A : Word) : Half := reduceByTable elut A

end Sys2Proof.Machine
end

