-- ==== Sys2Proof/Machine/Operation.lean ====
section
/-! DEFINITION. Sys2Proof/Machine/Operation.lean: the operation layer `Exec(op, A)` (00_scope.md R10):
one datapath per assigned operation, and their selection by the op code. -/

namespace Sys2Proof.Machine

/-- `Y <- A[31:0]` (40 R86). -/
def yF32tou32 (a : Word) : Word := a

/-- `Y <- A[31:0]` (40 R87). -/
def yU32tof32 (a : Word) : Word := a

/-- `Y <- zext_32(A[15:0])` (40 R88). -/
def yF16tou16 (a : Word) : Word := zext32 (lowHalf a)

/-- `Y <- zext_32(A[15:0])` (40 R89). -/
def yU16tof16 (a : Word) : Word := zext32 (lowHalf a)

/-- `Y <- expand(A[15:0])` (41 R107). -/
def yH2f (a : Word) : Word := expand (lowHalf a)

/-- `Y <- HLUT[A[15:0]]` (41 R108); a build without the table computes `expand` (43 R158). -/
def yH2fLut (impl : TableImpl) (a : Word) : Word :=
  match impl with
  | .rom => hlut (lowHalf a)
  | .computed => expand (lowHalf a)

/-- `Y <- zext_32(reduce_direct(A[31:0]))` (42 R134). -/
def yF2h (a : Word) : Word := zext32 (reduceDirect a)

/-- `Y <- zext_32(reduce_fast(A[31:0]))` (42 R135); a build without the table computes
`reduce_direct` (43 R158). -/
def yF2hFast (impl : TableImpl) (a : Word) : Word :=
  match impl with
  | .rom => zext32 (reduceFast a)
  | .computed => zext32 (reduceDirect a)

/-- The outcome the rules give a request, the table operations reading their tables. -/
def outcomeOf : Instr → OpResult
  | .f32tou32 a => .value (yF32tou32 a)
  | .u32tof32 a => .value (yU32tof32 a)
  | .f16tou16 a => .value (yF16tou16 a)
  | .u16tof16 a => .value (yU16tof16 a)
  | .h2f a => .value (yH2f a)
  | .h2fLut a => .value (yH2fLut .rom a)
  | .f2h a => .value (yF2h a)
  | .f2hFast a => .value (yF2hFast .rom a)
  | .reserved _ _ => .illegalOp

/-- `Exec(op, A)`, a total function of the op code and the operand alone (00 R10, 10 R30). -/
def opLayer (op : OpCode) (a : Word) : OpResult := outcomeOf (decodeOp op a)

end Sys2Proof.Machine
end

