-- ==== Sys2Proof/Machine/State.lean ====
section
/-! DEFINITION. Sys2Proof/Machine/State.lean: the state of the block (10_state.md R21, R29, R32), the
host's stream of port values, and the state after reset. The two tables, ELUT and HLUT, are the
block's constant state: they are functions (43 R155), in Machine/Tables.lean. -/

namespace Sys2Proof.Machine

/-- The fault reasons of the model. No step answers `.fault`: the block never stops (93 U1). -/
inductive Fault where
  /-- `IllegalOp` (60 R171): recorded in `State.faults` by every request with a reserved op code,
  whose response carries `ILL = 1`; the machine goes on. Safe: nothing can rest on its `Y`. -/
  | illegalOp
deriving DecidableEq, Repr

/-- The refusals of the model. -/
inductive Refusal where
  /-- An operation of the opcode table without a meaning yet. No arm of `exec` raises it. Safe. -/
  | notModelled (mnemonic : String)
deriving DecidableEq, Repr

/-- The values of the input ports at one rising edge of `clk` (10 R21, R22).
Each is 0 or 1 (log 12). -/
structure InPorts where
  /-- `rst`: synchronous reset, active high (70 R190). -/
  rst : Bool
  /-- `in_valid`: a request is presented. -/
  valid : Bool
  /-- `in_op`. -/
  op : OpCode
  /-- `in_a`. -/
  a : Word
deriving DecidableEq, Repr

/-- The values of the output ports in one cycle (10 R21). -/
structure OutPorts where
  /-- `out_valid`. -/
  valid : Bool
  /-- `out_y`. -/
  y : Word
  /-- `out_illegal`. -/
  illegal : Bool
deriving DecidableEq, Repr

/-- One pipeline stage (10 R29). -/
structure Stage where
  v : Bool
  y : Word
  ill : Bool
deriving DecidableEq, Repr

structure State where
  /-- `LATENCY` and `TABLE_IMPL`, fixed when the block is built (00 R6). -/
  params : Params
  /-- Whether a reset edge has come since power-up: before it every stage and every output is a draw
  (10 R33, 92 D20). The model's own field (log 6). -/
  wasReset : Bool
  /-- `stage[1]` first, `stage[LATENCY]` last (10 R29). -/
  stages : List Stage
  /-- `out_valid`, `out_y`, `out_illegal` in the cycle this state stands for (10 R21). -/
  out : OutPorts
  /-- The host's stream: the input ports' values at the coming edges, the next one first (10 R24).
  The model's own field (log 1). -/
  inputs : List InPorts
  /-- How many draws have been taken. The model's own field (log 3). -/
  draws : Nat
  /-- The fault record that no step clears, newest first (60 R171). The model's own field (log 4). -/
  faults : List Fault
deriving DecidableEq, Repr

/-- Right after a reset edge, at the reference parameters (10 R32): the one stage is empty, its data
fields are draws, `out_valid = 0`. No input is listed: the interface loads no program. -/
def State.reset : State where
  params := Config.referenceParams
  wasReset := true
  stages := [⟨false, Config.drawY 0, Config.drawIll 0⟩]
  out := ⟨false, Config.drawY 0, Config.drawIll 0⟩
  inputs := []
  draws := 1
  faults := []

end Sys2Proof.Machine
end

