-- ==== Sys2Proof/Machine/Ops.lean ====
section
/-! DEFINITION. Sys2Proof/Machine/Ops.lean: the shared operations on the state: the pipeline at one
rising edge (70_reset_and_hazards.md R191, R194, R195), the response of a request, `IllegalOp`
(60_exceptions.md R171), the sampling of the input ports. -/

namespace Sys2Proof.Machine

/-- The last stage drives the outputs (10 R29). -/
def Stage.drive (st : Stage) : OutPorts := ⟨st.v, st.y, st.ill⟩

/-- A stage that holds no response: `v = 0`, its data fields draw number `n` (10 R32, 70 R194). -/
def emptyStage (n : Nat) : Stage := ⟨false, Config.drawY n, Config.drawIll n⟩

/-- `k` stages without a response, their data fields the draws `n`, `n + 1`, … -/
def emptyStages (n : Nat) : Nat → List Stage
  | 0 => []
  | k + 1 => emptyStage n :: emptyStages (n + 1) k

/-- A stage that holds the response of an assigned operation: `ILL = 0` (60 R170). -/
def responseStage (y : Word) : Stage := ⟨true, y, false⟩

/-- A stage that holds the response of a reserved request: `ILL = 1`, `Y` draw number `n` (60 R171). -/
def illegalStage (n : Nat) : Stage := ⟨true, Config.drawY n, true⟩

/-- What drives the outputs: the last stage, or, in a block with no stage (`LATENCY = 0`), what enters
in this very cycle (10 R29, 70 R195). -/
def outputsOf (pipe : List Stage) (entering : Stage) : OutPorts := (pipe.getLastD entering).drive

/-- A stage before the first reset: every bit draw number `n`, the valid bit too (10 R33). -/
def unknownStage (n : Nat) : Stage := ⟨Config.drawValid n, Config.drawY n, Config.drawIll n⟩

/-- `k` stages before the first reset, of the draws `n`, `n + 1`, … -/
def unknownStages (n : Nat) : Nat → List Stage
  | 0 => []
  | k + 1 => unknownStage n :: unknownStages (n + 1) k

/-- One edge without reset before the first reset edge: every stage and every output is a draw again,
whatever was presented, whatever the latency, so a spurious response is possible (10 R33, 92 D20,
93 U3; log 6). -/
def State.unknownEdge (s : State) : State :=
  let pipe := unknownStages s.draws s.params.latency
  { s with
    stages := pipe
    out := outputsOf pipe (unknownStage s.draws)
    draws := s.draws + max s.params.latency 1 }

/-- One edge without reset (70 R194): every stage takes what the one before it held, `stage[1]` takes
`entering`, and the outputs are those of the last stage; with `LATENCY = 0` the outputs are `entering`
itself, in the cycle that ends at the edge (70 R195). Before the first reset edge nothing of this can be
relied on (10 R33). -/
def State.shiftIn (s : State) (entering : Stage) : State :=
  if s.wasReset then
    let pipe := (entering :: s.stages).take s.params.latency
    { s with stages := pipe, out := outputsOf pipe entering }
  else s.unknownEdge

/-- An edge that accepts an assigned operation with the result `y` (70 R193, R194). -/
def State.respond (s : State) (y : Word) : State := s.shiftIn (responseStage y)

/-- `raise IllegalOp` (60 R171), the block's one exception-like event: the response has `ILL = 1` and
a drawn `Y` and travels like any other; the model records the fault, which no step clears. There is no
trap: nothing is saved, no mode changes, control goes nowhere (60 R175, R176). -/
def State.raiseIllegalOp (s : State) : State :=
  let t := s.shiftIn (illegalStage s.draws)
  { t with
    draws := t.draws + 1
    faults := .illegalOp :: s.faults }

/-- An edge with `rst = 0` and `in_valid = 0`: only the pipeline advances (60 R182, 70 R194). -/
def State.idleEdge (s : State) : State :=
  let t := s.shiftIn (emptyStage s.draws)
  { t with draws := t.draws + 1 }

/-- An edge with `rst = 1` (70 R191): every valid bit is cleared and what was in flight is discarded.
The data fields are draws (10 R32); with no stage the outputs follow 70 R195. From here on the pipeline
and the outputs are the block's (10 R33). -/
def State.resetEdge (s : State) : State :=
  let pipe := emptyStages s.draws s.params.latency
  { s with
    wasReset := true
    stages := pipe
    out := outputsOf pipe (emptyStage s.draws)
    draws := s.draws + max s.params.latency 1 }

/-- The block at power-up, before its first reset edge (10 R33). The tables hold their contents. -/
def powerUp (p : Params) (inputs : List InPorts) : State :=
  let pipe := unknownStages 0 p.latency
  { params := p
    wasReset := false
    stages := pipe
    out := outputsOf pipe (unknownStage 0)
    inputs := inputs
    draws := max p.latency 1
    faults := [] }

/-- The ports in an edge where the host presents nothing (70 R199, row idle). With `in_valid = 0` the
values of `in_op` and `in_a` have no effect (10 R22). -/
def idlePorts : InPorts := ⟨false, false, 0#4, 0#32⟩

/-- The ports in an edge where the host presents a request (30 R60). -/
def requestPorts (w : Req) : InPorts := ⟨false, true, w.op, w.operand⟩

/-- The ports in an edge with `rst = 1` and `in_valid = 0` (30 R69). -/
def resetPorts : InPorts := ⟨true, false, 0#4, 0#32⟩

/-- What one rising edge is to the block. -/
inductive Edge where
  | reset
  | idle
  | request (i : Instr)
deriving DecidableEq, Repr

/-- A request is accepted exactly when `rst = 0` and `in_valid = 1` (70 R193); reset ignores the other
inputs (70 R191). -/
def InPorts.edge (p : InPorts) : Edge :=
  if p.rst then .reset
  else if p.valid then .request (decode (request p.op p.a))
  else .idle

/-- The ports' values at the next edge, and the stream after it. A stream that lists no further edge
is a host that idles. DESIGN CHOICE (log 1). -/
def State.sample (s : State) : InPorts × State :=
  match s.inputs with
  | [] => (idlePorts, s)
  | p :: rest => (p, { s with inputs := rest })

end Sys2Proof.Machine
end

