-- ==== Sys2Proof/Machine/Convert.lean ====
section
/-! DEFINITION. Sys2Proof/Machine/Convert.lean: the meanings of the two converters
(41_half_to_float.md R107, R108; 42_float_to_half.md R134, R135). -/

namespace Sys2Proof.Machine

/-- `H2F` (41 R107). -/
def execH2f (a : Word) (s : State) : Host.Outcome State Fault Refusal :=
  .next (s.respond (yH2f a))

/-- `H2F.LUT` (41 R108). -/
def execH2fLut (a : Word) (s : State) : Host.Outcome State Fault Refusal :=
  .next (s.respond (yH2fLut s.params.tableImpl a))

/-- `F2H` (42 R134). -/
def execF2h (a : Word) (s : State) : Host.Outcome State Fault Refusal :=
  .next (s.respond (yF2h a))

/-- `F2H.FAST` (42 R135). -/
def execF2hFast (a : Word) (s : State) : Host.Outcome State Fault Refusal :=
  .next (s.respond (yF2hFast s.params.tableImpl a))

end Sys2Proof.Machine
end

