-- ==== Sys2Proof/Machine/Reinterpret.lean ====
section
/-! DEFINITION. Sys2Proof/Machine/Reinterpret.lean: the meanings of the bit reinterpreter
(40_formats_reinterpret.md R86 to R89): the edge that accepts the request. -/

namespace Sys2Proof.Machine

/-- `F32TOU32` (40 R86). -/
def execF32tou32 (a : Word) (s : State) : Host.Outcome State Fault Refusal :=
  .next (s.respond (yF32tou32 a))

/-- `U32TOF32` (40 R87). -/
def execU32tof32 (a : Word) (s : State) : Host.Outcome State Fault Refusal :=
  .next (s.respond (yU32tof32 a))

/-- `F16TOU16` (40 R88). -/
def execF16tou16 (a : Word) (s : State) : Host.Outcome State Fault Refusal :=
  .next (s.respond (yF16tou16 a))

/-- `U16TOF16` (40 R89). -/
def execU16tof16 (a : Word) (s : State) : Host.Outcome State Fault Refusal :=
  .next (s.respond (yU16tof16 a))

end Sys2Proof.Machine
end

