-- ==== Sys2Proof/Machine/Reserved.lean ====
section
/-! DEFINITION. Sys2Proof/Machine/Reserved.lean: the meaning of a reserved op code
(60_exceptions.md R171). -/

namespace Sys2Proof.Machine

/-- A request with a reserved op code, 0x8 to 0xF: `IllegalOp` (60 R171). Neither the op code nor the
operand is read further or stored; the machine goes on (93 U1).
DESIGN CHOICE (log 11): a term with an assigned op code, which no word decodes to, runs the same. -/
def execReserved (s : State) : Host.Outcome State Fault Refusal :=
  .next s.raiseIllegalOp

end Sys2Proof.Machine
end

