-- ==== Sys2Proof/Machine/Dispatch.lean ====
section
/-! DEFINITION. Sys2Proof/Machine/Dispatch.lean: one arm per operation of the opcode table. `exec i s`
is the rising edge at which the request `i` is accepted (70_reset_and_hazards.md R193, R194). -/

namespace Sys2Proof.Machine

def exec (i : Instr) (s : State) : Host.Outcome State Fault Refusal :=
  match i with
  | .f32tou32 a => Sys2Proof.Machine.execF32tou32 a s
  | .u32tof32 a => Sys2Proof.Machine.execU32tof32 a s
  | .f16tou16 a => Sys2Proof.Machine.execF16tou16 a s
  | .u16tof16 a => Sys2Proof.Machine.execU16tof16 a s
  | .h2f a => Sys2Proof.Machine.execH2f a s
  | .h2fLut a => Sys2Proof.Machine.execH2fLut a s
  | .f2h a => Sys2Proof.Machine.execF2h a s
  | .f2hFast a => Sys2Proof.Machine.execF2hFast a s
  | .reserved _ _ => Sys2Proof.Machine.execReserved s

end Sys2Proof.Machine
end

