-- ==== Sys2Proof/Machine/Step.lean ====
section
/-! DEFINITION. Sys2Proof/Machine/Step.lean: one step is one rising edge of `clk` together with the
cycle its outputs belong to (70_reset_and_hazards.md, section 2): the cycle after the edge for
`LATENCY >= 1` (R194), the cycle that ends at the edge for `LATENCY = 0` (R195). DEDUCED (log 5). -/

namespace Sys2Proof.Machine

/-- One edge: the input ports are sampled, and the edge is a reset, the acceptance of a request, or
idle (70 R191, R193, R194). -/
def step (s : State) : Host.Outcome State Fault Refusal :=
  match s.sample with
  | (p, s') =>
    match p.edge with
    | .reset => .next s'.resetEdge
    | .idle => .next s'.idleEdge
    | .request i => exec i s'

/-- The host presents the request word `w` at the next edge, in place of what it would have driven
there; later edges are as they were. The block fetches nothing: the stream is its program
(10 R24, 30 R60). -/
def State.withFetchWord (s : State) (nbits w : Nat) : State :=
  { s with inputs := requestPorts (BitVec.ofNat 36 (w % 2 ^ nbits)) :: s.inputs.tail }

end Sys2Proof.Machine
end

