-- ==== Sys2Proof/Machine/Assembler.lean ====
section
/-! DEFINITION. Sys2Proof/Machine/Assembler.lean: the notation for request streams
(30_encoding.md R68 to R70): a line stands for the port values of one or more edges. Text is a list
of characters. DESIGN CHOICE (log 8): letter case of directives, separators, digit counts. -/

namespace Sys2Proof.Machine

/-- One line of a program, its names resolved (30 R68, R69). -/
inductive AsmLine where
  /-- `MNEMONIC operand`: the op code of the mnemonic and the operand. -/
  | op (code : OpCode) (operand : Nat)
  /-- `IDLE n`. -/
  | idle (n : Nat)
  /-- `RESET n`. -/
  | reset (n : Nat)
  /-- `.REQ w`. -/
  | raw (w : Nat)
deriving DecidableEq, Repr

/-- The names that stand for an op code: the eight of 30 R64 and the two aliases of R69. -/
def opNames : List (List Char × OpCode) :=
  [(['F', '3', '2', 'T', 'O', 'U', '3', '2'], 0x0#4),
   (['U', '3', '2', 'T', 'O', 'F', '3', '2'], 0x1#4),
   (['F', '1', '6', 'T', 'O', 'U', '1', '6'], 0x2#4),
   (['U', '1', '6', 'T', 'O', 'F', '1', '6'], 0x3#4),
   (['H', '2', 'F'], 0x4#4),
   (['H', '2', 'F', '.', 'L', 'U', 'T'], 0x5#4),
   (['F', '2', 'H'], 0x6#4),
   (['F', '2', 'H', '.', 'F', 'A', 'S', 'T'], 0x7#4)] ++
  [(['H', 'A', 'L', 'F', '_', 'T', 'O', '_', 'F', 'L', 'O', 'A', 'T'], 0x4#4),
   (['F', 'L', 'O', 'A', 'T', '_', 'T', 'O', '_', 'H', 'A', 'L', 'F'], 0x6#4)]

/-- The op codes whose operand is 16 bits wide (30 R62). -/
def halfInput (code : OpCode) : Bool := code == 0x2#4 || code == 0x3#4 || code == 0x4#4 || code == 0x5#4

/-- The edges a line stands for; none where R68 or R69 gives the line no meaning: an operand of 2^32
or more, a count below 1, a raw word wider than a request. -/
def AsmLine.edges : AsmLine → Option (List InPorts)
  | .op code x =>
    if x < 2 ^ 32 then some [requestPorts (request code (BitVec.ofNat 32 x))] else none
  | .idle n => if 1 ≤ n then some (List.replicate n idlePorts) else none
  | .reset n => if 1 ≤ n then some (List.replicate n resetPorts) else none
  | .raw w => if w < 2 ^ 36 then some [requestPorts (BitVec.ofNat 36 w)] else none

/-- The assembler warns of an operand above 0xFFFF of a 16-bit-input operation, and encodes it all
the same (30 R68). -/
def AsmLine.warns : AsmLine → Bool
  | .op code x => halfInput code && decide (0xFFFF < x)
  | .idle _ => false
  | .reset _ => false
  | .raw _ => false

/-- A program: its lines back to back (30 R69). -/
def assemble : List AsmLine → Option (List InPorts)
  | [] => some []
  | l :: ls => l.edges.bind fun es => (assemble ls).map fun rest => es ++ rest

/-- The number of a hexadecimal or decimal digit. -/
def digit (base : Nat) (c : Char) : Option Nat :=
  let n := c.toNat
  let v :=
    if 48 ≤ n ∧ n ≤ 57 then n - 48
    else if 65 ≤ n ∧ n ≤ 70 then n - 55
    else if 97 ≤ n ∧ n ≤ 102 then n - 87
    else base
  if v < base then some v else none

/-- A non-empty string of digits. -/
def digits (base : Nat) : List Char → Option Nat
  | [] => none
  | c :: cs => cs.foldl (fun acc d => acc.bind fun n => (digit base d).map (n * base + ·)) (digit base c)

/-- An unsigned integer literal: hexadecimal after `0x`, else decimal (30 R68). -/
def literal : List Char → Option Nat
  | '0' :: 'x' :: cs => digits 16 cs
  | cs => digits 10 cs

/-- Letter case does not matter in a name (30 R68). -/
def upper (c : Char) : Char := if 97 ≤ c.toNat ∧ c.toNat ≤ 122 then Char.ofNat (c.toNat - 32) else c

/-- The words of a line; text after `;` is a comment (30 R68). -/
def lineWords (cs : List Char) : List (List Char) :=
  ((cs.takeWhile (· != ';')).foldr
    (fun c acc =>
      if c == ' ' || c == '\t' then [] :: acc
      else match acc with
        | [] => [[c]]
        | w :: ws => (c :: w) :: ws)
    [[]]).filter (· != [])

/-- A count that may be left out: 1 then (30 R69). -/
def countOf : List (List Char) → Option Nat
  | [] => some 1
  | [n] => literal n
  | _ => none

/-- The word of `.REQ`: `0x` and 9 hexadecimal digits (30 R69). DESIGN CHOICE (log 8): the prefix is
needed, and a word in decimal or with another number of digits is none. -/
def rawWord : List Char → Option Nat
  | '0' :: 'x' :: cs => if cs.length = 9 then digits 16 cs else none
  | _ => none

/-- One line of text: nothing for a blank line, `none` for text that R68 and R69 do not describe. -/
def parseLine (cs : List Char) : Option (List AsmLine) :=
  match lineWords cs with
  | [] => some []
  | name :: args =>
    let n := name.map upper
    if n == ['I', 'D', 'L', 'E'] then (countOf args).map fun k => [.idle k]
    else if n == ['R', 'E', 'S', 'E', 'T'] then (countOf args).map fun k => [.reset k]
    else if n == ['.', 'R', 'E', 'Q'] then
      match args with
      | [w] => (rawWord w).map fun x => [.raw x]
      | _ => none
    else
      match args with
      | [x] => (opNames.lookup n).bind fun code => (literal x).map fun v => [.op code v]
      | _ => none

/-- The hexadecimal digit of a number below 16. -/
def hexChar (n : Nat) : Char := if n < 10 then Char.ofNat (48 + n) else Char.ofNat (55 + n)

/-- A number in `k` hexadecimal digits. -/
def hexText : Nat → Nat → List Char
  | 0, _ => []
  | k + 1, n => hexChar (n / 16 ^ k % 16) :: hexText k n

/-- The listing of a request word: 9 hexadecimal digits (30 R68). -/
def wordText (w : Req) : List Char := ['0', 'x'] ++ hexText 9 w.toNat

/-- The listing of a response (30 R70): a draw is written `Y=?`. -/
def responseText : OpResult → List Char
  | .value y =>
    ['-', '>', ' ', 'Y', '=', '0', 'x'] ++ hexText 8 y.toNat ++ [' ', 'I', 'L', 'L', '=', '0']
  | .illegalOp => ['-', '>', ' ', 'Y', '=', '?', ' ', 'I', 'L', 'L', '=', '1']

end Sys2Proof.Machine
end

