-- ==== Sys2Proof/Machine/Values.lean ====
section
/-! DEFINITION. Sys2Proof/Machine/Values.lean: the number a pattern stands for
(40_formats_reinterpret.md R84). Only statements read it; no operation computes it. -/

namespace Sys2Proof.Machine

/-- What a pattern stands for. A NaN stands for no number; R84 gives it no value.
DESIGN CHOICE (log 10): the value `nan`. -/
inductive FloatValue where
  | finite (q : ℚ)
  | infinity (negative : Bool)
  | nan
deriving DecidableEq, Repr

/-- The factor `(-1)^s` of R84. -/
def signFactor (s : BitVec 1) : ℚ := (-1) ^ s.toNat

/-- The number of a finite binary16 pattern: the first two lines of `val16` (40 R84). -/
def finite16 (h : Half) : ℚ :=
  if halfExp h = 0 then
    signFactor (halfSign h) * (2 : ℚ) ^ (-14 : ℤ) * ((halfMant h).toNat / 2 ^ 10)
  else
    signFactor (halfSign h) * (2 : ℚ) ^ ((halfExp h).toNat - 15 : ℤ) *
      (1 + (halfMant h).toNat / 2 ^ 10)

/-- The number of a finite binary32 pattern: the first two lines of `val32` (40 R84). -/
def finite32 (f : Word) : ℚ :=
  if floatExp f = 0 then
    signFactor (floatSign f) * (2 : ℚ) ^ (-126 : ℤ) * ((floatMant f).toNat / 2 ^ 23)
  else
    signFactor (floatSign f) * (2 : ℚ) ^ ((floatExp f).toNat - 127 : ℤ) *
      (1 + (floatMant f).toNat / 2 ^ 23)

/-- `val16` (40 R84). -/
def val16 (h : Half) : FloatValue :=
  match halfClass h with
  | .zero => .finite (finite16 h)
  | .subnormal => .finite (finite16 h)
  | .normal => .finite (finite16 h)
  | .infinity => .infinity (halfSign h == 1)
  | .nan => .nan

/-- `val32` (40 R84). -/
def val32 (f : Word) : FloatValue :=
  match floatClass f with
  | .zero => .finite (finite32 f)
  | .subnormal => .finite (finite32 f)
  | .normal => .finite (finite32 f)
  | .infinity => .infinity (floatSign f == 1)
  | .nan => .nan

end Sys2Proof.Machine
end

