-- ==== Sys2Proof/Machine/Observe.lean ====
section
/-! DEFINITION. Sys2Proof/Machine/Observe.lean: what the host sees of a run
(70_reset_and_hazards.md R194, R195, R200): the output ports cycle by cycle, and the ordered list of
responses, in which a draw compares equal to nothing. -/

namespace Sys2Proof.Machine

/-- The states after each of `k` edges from `s` on, in order. -/
def cycles : Nat → State → List State
  | 0, _ => []
  | k + 1, s =>
    match step s with
    | .next t => t :: cycles k t
    | .fault _ => []
    | .refused _ => []

/-- The output ports in the `k` cycles from `s` on, in order. -/
def observe (k : Nat) (s : State) : List OutPorts := (cycles k s).map (·.out)

/-- The state after `k` edges. -/
def after : Nat → State → Option State
  | 0, s => some s
  | k + 1, s =>
    match step s with
    | .next t => after k t
    | .fault _ => none
    | .refused _ => none

/-- One response, `(Y, ILL)` (00_scope.md R12); `none` stands for a draw. -/
structure Response where
  y : Option Word
  ill : Option Bool
deriving DecidableEq, Repr

/-- The response presented in a cycle, if there is one: the host reads `out_y` and `out_illegal` only
while `out_valid = 1` (70 R197, R199). With `ILL = 1` its `Y` is a draw (60 R171); before the first reset
edge it is spurious, and both are (10 R33). -/
def State.response (s : State) : Option Response :=
  if s.out.valid then
    if s.wasReset then
      some ⟨if s.out.illegal then none else some s.out.y, some s.out.illegal⟩
    else some ⟨none, none⟩
  else none

/-- What the `k` cycles from `s` on present, cycle by cycle. -/
def presented (k : Nat) (s : State) : List (Option Response) := (cycles k s).map State.response

/-- The observation of a run of `k` cycles: the ordered list of its responses (70 R200). -/
def responses (k : Nat) (s : State) : List Response := (presented k s).filterMap id

/-- Two responses compare equal: a draw compares equal to nothing, not even to a draw (70 R200). -/
def Response.same (a b : Response) : Bool :=
  match a, b with
  | ⟨some y, some i⟩, ⟨some y', some i'⟩ => y == y' && i == i'
  | _, _ => false

/-- Two observations compare equal, response by response (70 R200). -/
def sameObservation : List Response → List Response → Bool
  | [], [] => true
  | a :: as, b :: bs => a.same b && sameObservation as bs
  | _, _ => false

/-- The operation layer's outcome of the request an edge accepts, if it accepts one (70 R193). -/
def InPorts.outcome (p : InPorts) : Option OpResult :=
  if !p.rst && p.valid then some (opLayer p.op p.a) else none

/-- The outcomes of the requests a stream presents, in the order they are accepted. -/
def outcomes (inputs : List InPorts) : List OpResult := inputs.filterMap InPorts.outcome

/-- The outputs present an outcome: nothing is asked of the `Y` of a reserved request (00 R10, 60 R171). -/
def OpResult.onPorts (r : OpResult) (o : OutPorts) : Prop :=
  match r with
  | .value y => o = ⟨true, y, false⟩
  | .illegalOp => o.valid = true ∧ o.illegal = true

/-- A response is the one of an outcome: the `Y` of a reserved request is a draw (00 R10, 60 R171). -/
def OpResult.allows (r : OpResult) (o : Response) : Prop :=
  match r with
  | .value y => o = ⟨some y, some false⟩
  | .illegalOp => o.y = none ∧ o.ill = some true

end Sys2Proof.Machine
end

