-- ==== Sys2Proof/Safety.lean ====
section
/-! DEFINITION. Sys2Proof/Safety.lean: the terms claims are stated in: the invariant of the block, the
host's protocol (70_reset_and_hazards.md R199), the end of a run (R200). -/

namespace Sys2Proof.Machine

/-- The stages that hold the response of a reserved request. -/
def State.illegalInFlight (s : State) : Nat := s.stages.countP fun st => st.v && st.ill

/-- The invariant of the block: it holds as many stages as its latency (10 R29), the last one drives
the outputs (10 R29), and, once it has been reset, every illegal response in flight has its fault in the
record (60 R171). -/
structure State.Inv (s : State) : Prop where
  depth : s.stages.length = s.params.latency
  driven : ∀ st, s.stages.getLast? = some st → s.out = st.drive
  recorded : s.wasReset = true → s.illegalInFlight ≤ s.faults.length

/-- No response is in flight. -/
def State.Drained (s : State) : Prop := ∀ st ∈ s.stages, st.v = false

/-- The host presents no request while `rst = 1` (70 R199). -/
def hostObeys (inputs : List InPorts) : Bool := inputs.all fun p => !(p.rst && p.valid)

/-- No edge of the stream has `rst = 1`. -/
def noReset (inputs : List InPorts) : Bool := inputs.all fun p => !p.rst

/-- No edge of the stream presents a request that would be accepted (70 R193). -/
def noRequest (inputs : List InPorts) : Bool := inputs.all fun p => p.rst || !p.valid

/-- The run has ended with this cycle (70 R200): no further request comes, and no response waits
behind the one the last stage presents in this cycle. -/
def State.runEnded (s : State) : Bool :=
  noRequest s.inputs && s.stages.dropLast.all fun st => !st.v

end Sys2Proof.Machine
end

