-- ==== Sys2Proof/Certificates/Slice0/Obligations.lean ====
section
/-! DEFINITION. Sys2Proof/Certificates/Slice0/Obligations.lean: the statements for the provers, in the
order of the spec's files. Each docstring names the rule of spec/ it formalises. -/

namespace Sys2Proof.Claims

open Sys2Proof.Machine

/-- `t` is `s` after one edge without reset into which the stage `st` enters (70 R194, R195), and
nothing else has changed but the draws and the fault record, which the claims speak of themselves. -/
structure Advanced (s t : State) (st : Stage) : Prop where
  depth : t.stages.length = s.params.latency
  first : 0 < s.params.latency → t.stages[0]? = some st
  shifted : ∀ k, k + 1 < s.params.latency → t.stages[k + 1]? = s.stages[k]?
  outputs : ∀ k last, s.params.latency = k + 1 → t.stages[k]? = some last →
    t.out = ⟨last.v, last.y, last.ill⟩
  combinational : s.params.latency = 0 → t.out = ⟨st.v, st.y, st.ill⟩
  wasReset : t.wasReset = s.wasReset
  params : t.params = s.params
  inputs : t.inputs = s.inputs

/-- The operation completes at `s` with the result `y` and `ILL = 0`: its response enters the pipeline
and everything else is as it was. -/
def AnswersWith (i : Instr) (s : State) (y : Word) : Prop :=
  ∃ t, exec i s = .next t ∧ Advanced s t ⟨true, y, false⟩ ∧
    t.draws = s.draws ∧ t.faults = s.faults

/-- The block has been reset (10 R33) and holds as many stages as its latency (10 R29). -/
def Ready (s : State) : Prop := s.wasReset = true ∧ s.stages.length = s.params.latency

/-- Nothing is known of the block before its first reset edge (10 R33): in `t` every bit of every stage
and of every output is one of the draws from number `first` on. The host reads a spurious response or
none. -/
structure Unknown (params : Params) (first : Nat) (t : State) : Prop where
  wasReset : t.wasReset = false
  depth : t.stages.length = params.latency
  stages : ∀ st ∈ t.stages, ∃ n, first ≤ n ∧ n < t.draws ∧
    st = ⟨Config.drawValid n, Config.drawY n, Config.drawIll n⟩
  outputs : ∃ n, first ≤ n ∧ n < t.draws ∧
    t.out = ⟨Config.drawValid n, Config.drawY n, Config.drawIll n⟩
  driven : ∀ st, t.stages.getLast? = some st → t.out = ⟨st.v, st.y, st.ill⟩
  response : t.response = if t.out.valid then some ⟨none, none⟩ else none
  params : t.params = params

/-- `t` is a state a reset edge leaves (10 R32, 70 R191). -/
structure Cleared (t : State) : Prop where
  depth : t.stages.length = t.params.latency
  empty : ∀ st ∈ t.stages, st.v = false
  silent : t.out.valid = false

/-- A request is accepted at an edge (70 R193). -/
def accepts (p : InPorts) : Prop := p.rst = false ∧ p.valid = true

/-- A half that is neither an infinity nor a NaN (40 R82). -/
def FiniteHalf (h : Half) : Prop := halfExp h ≠ 31

/-- A number of kept bits `q` with the remainder `rem` out of `2 * half`, rounded to the nearest, a tie
to the even (00 R11, 42 R137). -/
def nearestEven (q rem half : Nat) : Nat :=
  if half < rem ∨ (rem = half ∧ q % 2 = 1) then q + 1 else q

/-- Two cycles present the same: both no response, or two responses of one `ILL` which are the same
where they are assigned ones. Nothing is asked of the `Y` of a reserved request: it is a draw, and a draw
compares equal to nothing (60 R171, 70 R200). -/
def PresentSame (a b : Option Response) : Prop :=
  match a, b with
  | none, none => True
  | some r, some r' => r.ill = r'.ill ∧ r.ill.isSome = true ∧
      (r.ill = some false → r.same r' = true)
  | _, _ => False

/-- The eight mnemonics and their op codes, as the table of 30 R64 has them. -/
def mnemonics : List (List Char × OpCode) :=
  [(['F', '3', '2', 'T', 'O', 'U', '3', '2'], 0x0#4), (['U', '3', '2', 'T', 'O', 'F', '3', '2'], 0x1#4),
   (['F', '1', '6', 'T', 'O', 'U', '1', '6'], 0x2#4), (['U', '1', '6', 'T', 'O', 'F', '1', '6'], 0x3#4),
   (['H', '2', 'F'], 0x4#4), (['H', '2', 'F', '.', 'L', 'U', 'T'], 0x5#4),
   (['F', '2', 'H'], 0x6#4), (['F', '2', 'H', '.', 'F', 'A', 'S', 'T'], 0x7#4)]

/-- `spelled` is `name`, each letter in either case (30 R68). -/
def AnyCase (spelled name : List Char) : Prop :=
  List.Forall₂ (fun c d => c = d ∨ c = d.toLower) spelled name

/-- `text` is an unsigned integer literal of `x`: decimal, or hexadecimal after `0x` (30 R68). -/
def IsLiteral (text : List Char) (x : Nat) : Prop :=
  ∃ ds : List Nat, ds ≠ [] ∧
    (((∀ d ∈ ds, d < 10) ∧ text = ds.map Nat.digitChar ∧ x = Nat.ofDigits 10 ds.reverse) ∨
     ((∀ d ∈ ds, d < 16) ∧ x = Nat.ofDigits 16 ds.reverse ∧ ∃ cs, text = '0' :: 'x' :: cs ∧
       List.Forall₂ (fun c d => c = Nat.digitChar d ∨ c = (Nat.digitChar d).toUpper) cs ds))

end Sys2Proof.Claims

open Sys2Proof Sys2Proof.Machine Sys2Proof.Claims

/-! ## Formats and values (40) -/

/-- 40 R82, R83: the class of a pattern is the one whose condition holds. -/
def Obligations.ClassesAreTheirConditions : Prop :=
  (∀ h : Half,
    (halfClass h = .zero ↔ halfExp h = 0 ∧ halfMant h = 0) ∧
    (halfClass h = .subnormal ↔ halfExp h = 0 ∧ halfMant h ≠ 0) ∧
    (halfClass h = .normal ↔ 1 ≤ (halfExp h).toNat ∧ (halfExp h).toNat ≤ 30) ∧
    (halfClass h = .infinity ↔ halfExp h = 31 ∧ halfMant h = 0) ∧
    (halfClass h = .nan ↔ halfExp h = 31 ∧ halfMant h ≠ 0)) ∧
  (∀ f : Word,
    (floatClass f = .zero ↔ floatExp f = 0 ∧ floatMant f = 0) ∧
    (floatClass f = .subnormal ↔ floatExp f = 0 ∧ floatMant f ≠ 0) ∧
    (floatClass f = .normal ↔ 1 ≤ (floatExp f).toNat ∧ (floatExp f).toNat ≤ 254) ∧
    (floatClass f = .infinity ↔ floatExp f = 255 ∧ floatMant f = 0) ∧
    (floatClass f = .nan ↔ floatExp f = 255 ∧ floatMant f ≠ 0))

/-- 40 R86, R87: op codes 0x0 and 0x1 are the 32-bit reinterpretations; they complete in every
state of a block that has been reset and answer their operand. -/
def Obligations.WordReinterpretationsCopyTheOperand : Prop :=
  (∀ a : Word, decode (request 0x0#4 a) = .f32tou32 a ∧ decode (request 0x1#4 a) = .u32tof32 a) ∧
  (∀ (s : State) (a : Word), Ready s →
    AnswersWith (.f32tou32 a) s a ∧ AnswersWith (.u32tof32 a) s a)

/-- 40 R88, R89: op codes 0x2 and 0x3 are the 16-bit reinterpretations; they complete in every
state of a block that has been reset and answer the low half of their operand, zero-extended. -/
def Obligations.HalfReinterpretationsCopyTheLowHalf : Prop :=
  (∀ a : Word, decode (request 0x2#4 a) = .f16tou16 a ∧ decode (request 0x3#4 a) = .u16tof16 a) ∧
  (∀ (s : State) (a : Word), Ready s →
    AnswersWith (.f16tou16 a) s (BitVec.ofNat 32 (a.toNat % 2 ^ 16)) ∧
    AnswersWith (.u16tof16 a) s (BitVec.ofNat 32 (a.toNat % 2 ^ 16)))

/-- 40 R90: the reinterpretations undo each other, and the two of one width are one function. -/
def Obligations.ReinterpretationsUndoEachOther : Prop :=
  (∀ x y : Word,
    (opLayer 0x1#4 x = .value y → opLayer 0x0#4 y = .value x) ∧
    (opLayer 0x0#4 x = .value y → opLayer 0x1#4 y = .value x)) ∧
  (∀ (x : Half) (y : Word),
    (opLayer 0x3#4 (x.setWidth 32) = .value y → opLayer 0x2#4 y = .value (x.setWidth 32)) ∧
    (opLayer 0x2#4 (x.setWidth 32) = .value y → opLayer 0x3#4 y = .value (x.setWidth 32))) ∧
  (∀ x : Word, opLayer 0x0#4 x = opLayer 0x1#4 x ∧ opLayer 0x2#4 x = opLayer 0x3#4 x)

/-! ## Request encoding (30) -/

/-- 30 R64: words written out from the opcode map decode to the operation they stand for. -/
def Obligations.WrittenOutWordsDecode : Prop :=
  decode 0x03F800000#36 = .f32tou32 0x3F800000#32 ∧
  decode 0x17F800001#36 = .u32tof32 0x7F800001#32 ∧
  decode 0x212347C01#36 = .f16tou16 0x12347C01#32 ∧
  decode 0x3FFFF3C00#36 = .u16tof16 0xFFFF3C00#32 ∧
  decode 0x400003C00#36 = .h2f 0x00003C00#32 ∧
  decode 0x500008000#36 = .h2fLut 0x00008000#32 ∧
  decode 0x63F803000#36 = .f2h 0x3F803000#32 ∧
  decode 0x7477FE000#36 = .f2hFast 0x477FE000#32 ∧
  decode 0x800000000#36 = .reserved 0x8#4 0x00000000#32 ∧
  decode 0xF12345678#36 = .reserved 0xF#4 0x12345678#32

/-- 30 R60, R64: decoding the encoding of any well-formed operation gives it back. -/
def Obligations.DecodeUndoesEncode : Prop :=
  ∀ i : Instr, i.wf = true → decode (encode i) = i

/-- 30 R60, R65: every request word decodes to a well-formed operation, whose encoding it is. -/
def Obligations.EncodeUndoesDecode : Prop :=
  ∀ w : Req, (decode w).wf = true ∧ encode (decode w) = w

/-- 30 R65: the op field alone selects one of the nine rows, and `REQ[35] = 0` is exactly the set of
assigned codes. -/
def Obligations.OpFieldAloneSelectsTheOperation : Prop :=
  (∀ w : Req, (w.op.toNat < 8 → (decode w).rowIndex = w.op.toNat) ∧
    (8 ≤ w.op.toNat → (decode w).rowIndex = 8) ∧
    (w.getLsbD 35 = false ↔ (decode w).rowIndex < 8)) ∧
  (∀ (op : OpCode) (a a' : Word),
    (decode (request op a)).rowIndex = (decode (request op a')).rowIndex)

/-- 30 R64, R65: the match and mask columns cover every word exactly once, by the row of the
operation it decodes to. -/
def Obligations.RowsCoverEachWordOnce : Prop :=
  ∀ (w : Req) (n : Nat) (r : OpRow), opRows[n]? = some r →
    (r.covers w = true ↔ n = (decode w).rowIndex)

/-- 30 R62, R63: in a block that has been reset a 16-bit-input operation gives the same next state
whatever `A[31:16]` is, and a 16-bit result is zero-extended. -/
def Obligations.HalfOperandsAndResultsAreAssembled : Prop :=
  (∀ (s : State) (a a' : Word), s.wasReset = true → a.toNat % 2 ^ 16 = a'.toNat % 2 ^ 16 →
    exec (.f16tou16 a) s = exec (.f16tou16 a') s ∧
    exec (.u16tof16 a) s = exec (.u16tof16 a') s ∧
    exec (.h2f a) s = exec (.h2f a') s ∧
    exec (.h2fLut a) s = exec (.h2fLut a') s) ∧
  (∀ (op : OpCode) (a y : Word), op = 0x2#4 ∨ op = 0x3#4 ∨ op = 0x6#4 ∨ op = 0x7#4 →
    opLayer op a = .value y → y.toNat < 2 ^ 16)

/-- 30 R64, R68: a line `MNEMONIC operand`, with any of the eight names of R64 in any letter case and the
operand a decimal or hexadecimal literal, is one request with the op code that R64 gives that name; its
word is the op code above the operand; an operand of 2^32 or more is no operand; a warning changes
nothing; text after `;` is a comment. That hexadecimal digits stand in either case is the model's choice
(log 8). -/
def Obligations.RequestLinesEncodeTheirOperand : Prop :=
  (∀ (name : List Char) (code : OpCode), (name, code) ∈ mnemonics →
    opNames.lookup name = some code ∧
    (∀ (spelled text : List Char) (x : Nat), AnyCase spelled name → IsLiteral text x →
      parseLine (spelled ++ ' ' :: text) = some [.op code x] ∧
      (x < 2 ^ 32 → ∃ p, (parseLine (spelled ++ ' ' :: text)).bind assemble = some [p] ∧ accepts p ∧
        (request p.op p.a).toNat = code.toNat <<< 32 ||| x) ∧
      (2 ^ 32 ≤ x → (parseLine (spelled ++ ' ' :: text)).bind assemble = none)) ∧
    (∀ x : Nat, (AsmLine.op code x).warns = true ↔
      (code.toNat = 2 ∨ code.toNat = 3 ∨ code.toNat = 4 ∨ code.toNat = 5) ∧ 0xFFFF < x)) ∧
  (∀ line comment : List Char, parseLine (line ++ ';' :: comment) = parseLine line)

/-- 30 R69: the aliases expand to `H2F` and `F2H`, whatever follows the name; `IDLE n` and `RESET n`
are `n` cycles, one by default; `.REQ w` is the one request whose word is `w`, written as 9 hexadecimal
digits. That a count is any literal an operand can be is the model's choice (log 8). -/
def Obligations.AliasesAndDirectivesExpand : Prop :=
  (∀ rest : List Char,
    parseLine (['H', 'A', 'L', 'F', '_', 'T', 'O', '_', 'F', 'L', 'O', 'A', 'T', ' '] ++ rest) =
      parseLine (['H', '2', 'F', ' '] ++ rest) ∧
    parseLine (['F', 'L', 'O', 'A', 'T', '_', 'T', 'O', '_', 'H', 'A', 'L', 'F', ' '] ++ rest) =
      parseLine (['F', '2', 'H', ' '] ++ rest)) ∧
  parseLine ['I', 'D', 'L', 'E'] = some [.idle 1] ∧
  parseLine ['R', 'E', 'S', 'E', 'T'] = some [.reset 1] ∧
  (∀ (text : List Char) (n : Nat), IsLiteral text n →
    parseLine (['I', 'D', 'L', 'E', ' '] ++ text) = some [.idle n] ∧
    parseLine (['R', 'E', 'S', 'E', 'T', ' '] ++ text) = some [.reset n]) ∧
  (∀ n, 1 ≤ n →
    (∃ es, (AsmLine.idle n).edges = some es ∧ es.length = n ∧
      ∀ p ∈ es, p.rst = false ∧ p.valid = false) ∧
    (∃ es, (AsmLine.reset n).edges = some es ∧ es.length = n ∧
      ∀ p ∈ es, p.rst = true ∧ p.valid = false)) ∧
  (∀ w : Req, (wordText w).length = 11 ∧
    parseLine (['.', 'R', 'E', 'Q', ' '] ++ wordText w) = some [.raw w.toNat] ∧
    ∃ p, (AsmLine.raw w.toNat).edges = some [p] ∧ accepts p ∧ request p.op p.a = w)

/-! ## Half to float (41) -/

/-- 41 R107: op code 0x4 is `H2F`, alias `HALF_TO_FLOAT`; it completes in every state and answers `expand(A[15:0])`. -/
def Obligations.HalfToFloatAnswersExpand : Prop :=
  (∀ a : Word, decode (request 0x4#4 a) = .h2f a) ∧
  opNames.lookup ['H', 'A', 'L', 'F', '_', 'T', 'O', '_', 'F', 'L', 'O', 'A', 'T'] = some 0x4#4 ∧
  (∀ (s : State) (a : Word), Ready s →
    AnswersWith (.h2f a) s (expand (BitVec.ofNat 16 a.toNat)))

/-- 41 R108, R110, 43 R152: op code 0x5 is `H2F.LUT`; it completes in every state, with the table or
without, and answers what `H2F` answers, which is HLUT's entry. -/
def Obligations.ExpansionTableAnswersAsTheDirectPath : Prop :=
  (∀ a : Word, decode (request 0x5#4 a) = .h2fLut a) ∧
  (∀ (s : State) (a : Word), Ready s →
    AnswersWith (.h2fLut a) s (hlut (BitVec.ofNat 16 a.toNat))) ∧
  (∀ h : Half, hlut h = expand h) ∧
  (∀ (s : State) (a : Word), s.wasReset = true → exec (.h2fLut a) s = exec (.h2f a) s)

/-- 41 R101, R103, R104: zeros, infinities and NaNs, field by field. -/
def Obligations.ExpandZerosInfinitiesAndNans : Prop :=
  ∀ h : Half,
    (halfExp h = 0 → halfMant h = 0 →
      floatSign (expand h) = halfSign h ∧ floatExp (expand h) = 0 ∧ floatMant (expand h) = 0) ∧
    (halfExp h = 31 → halfMant h = 0 →
      floatSign (expand h) = halfSign h ∧ floatExp (expand h) = 255 ∧
        floatMant (expand h) = 0) ∧
    (halfExp h = 31 → halfMant h ≠ 0 →
      floatSign (expand h) = halfSign h ∧ floatExp (expand h) = 255 ∧
        (floatMant (expand h)).toNat = (halfMant h).toNat * 2 ^ 13 ∧
        floatClass (expand h) = .nan)

/-- 41 R102: a subnormal half becomes a normal float of the same value, by the document's shifting
form and by R102's table of ranges. -/
def Obligations.ExpandRenormalisesSubnormals : Prop :=
  ∀ h : Half, halfExp h = 0 → halfMant h ≠ 0 →
    floatClass (expand h) = .normal ∧ val32 (expand h) = val16 h ∧
    ∃ k, 1 ≤ k ∧ k ≤ 10 ∧
      2 ^ (10 - k) ≤ (halfMant h).toNat ∧ (halfMant h).toNat < 2 ^ (11 - k) ∧
      floatSign (expand h) = halfSign h ∧
      (floatExp (expand h)).toNat = 113 - k ∧
      (floatMant (expand h)).toNat = ((halfMant h).toNat * 2 ^ k % 2 ^ 10) * 2 ^ 13

/-- 41 R105: a normal half keeps its sign and mantissa and gets the exponent `e + 112`. -/
def Obligations.ExpandRebiasesNormals : Prop :=
  ∀ h : Half, 1 ≤ (halfExp h).toNat → (halfExp h).toNat ≤ 30 →
    floatSign (expand h) = halfSign h ∧
    (floatExp (expand h)).toNat = (halfExp h).toNat + 112 ∧
    (floatMant (expand h)).toNat = (halfMant h).toNat * 2 ^ 13

/-- 41 R109: every half that is not a NaN expands to the float of the same value, with its sign. -/
def Obligations.ExpandIsExact : Prop :=
  ∀ h : Half, halfClass h ≠ .nan →
    val32 (expand h) = val16 h ∧ floatSign (expand h) = halfSign h

/-- 41 R111: `expand` keeps the sign, maps each class to one class with its exponents, and is
injective. -/
def Obligations.ExpandMapsClassesInjectively : Prop :=
  (∀ h : Half,
    (expand h).getLsbD 31 = h.getLsbD 15 ∧
    (halfClass h = .zero → floatClass (expand h) = .zero) ∧
    (halfClass h = .subnormal → floatClass (expand h) = .normal ∧
      103 ≤ (floatExp (expand h)).toNat ∧ (floatExp (expand h)).toNat ≤ 112) ∧
    (halfClass h = .normal → floatClass (expand h) = .normal ∧
      113 ≤ (floatExp (expand h)).toNat ∧ (floatExp (expand h)).toNat ≤ 142) ∧
    (halfClass h = .infinity → floatClass (expand h) = .infinity) ∧
    (halfClass h = .nan → floatClass (expand h) = .nan)) ∧
  (∀ h g : Half, expand h = expand g → h = g)

/-- 41 R112: the low 13 bits of an expanded half are zero; above them stands the mantissa of a normal,
infinite or NaN half. -/
def Obligations.ExpandLeavesLowBitsZero : Prop :=
  ∀ h : Half,
    (expand h).toNat % 2 ^ 13 = 0 ∧
    (halfExp h ≠ 0 → (expand h).toNat / 2 ^ 13 % 2 ^ 10 = (halfMant h).toNat)

/-! ## Float to half (42) -/

/-- 42 R134: op code 0x6 is `F2H`, alias `FLOAT_TO_HALF`; it completes in every state and answers
`reduce_direct(A)`, zero-extended. -/
def Obligations.FloatToHalfAnswersReduceDirect : Prop :=
  (∀ a : Word, decode (request 0x6#4 a) = .f2h a) ∧
  opNames.lookup ['F', 'L', 'O', 'A', 'T', '_', 'T', 'O', '_', 'H', 'A', 'L', 'F'] = some 0x6#4 ∧
  (∀ (s : State) (a : Word), Ready s →
    AnswersWith (.f2h a) s (BitVec.ofNat 32 (reduceDirect a).toNat))

/-- 42 R135: op code 0x7 is `F2H.FAST`; it completes in every state, with the table or without, and
answers `reduce_fast(A)`, zero-extended, which is what `F2H` answers. -/
def Obligations.FastFloatToHalfAnswersReduceFast : Prop :=
  (∀ a : Word, decode (request 0x7#4 a) = .f2hFast a) ∧
  (∀ (s : State) (a : Word), Ready s →
    AnswersWith (.f2hFast a) s (BitVec.ofNat 32 (reduceFast a).toNat)) ∧
  (∀ (s : State) (a : Word), s.wasReset = true → exec (.f2hFast a) s = exec (.f2h a) s)

/-- 42 R121: every float with `E <= 101` gives the zero of its sign. -/
def Obligations.ReduceUnderflowsToSignedZero : Prop :=
  ∀ A : Word, (floatExp A).toNat ≤ 101 →
    (reduceDirect A).toNat = (floatSign A).toNat * 2 ^ 15

/-- 42 R122: for `102 <= E <= 112` the significand with its leading 1 is shifted right by
`t = 126 - E` and rounded to nearest even; the carry gives the smallest normal half, and zero comes of
2^-25 alone. -/
def Obligations.ReduceRoundsSubnormals : Prop :=
  ∀ A : Word, 102 ≤ (floatExp A).toNat → (floatExp A).toNat ≤ 112 →
    ∃ t r, t = 126 - (floatExp A).toNat ∧
      r = nearestEven ((2 ^ 23 + (floatMant A).toNat) / 2 ^ t)
        ((2 ^ 23 + (floatMant A).toNat) % 2 ^ t) (2 ^ (t - 1)) ∧
      r ≤ 0x400 ∧
      (r = 0 ↔ (floatExp A).toNat = 102 ∧ floatMant A = 0) ∧
      (reduceDirect A).toNat = (floatSign A).toNat * 2 ^ 15 + r

/-- 42 R123, R124: infinities stay infinite; a NaN keeps its sign and its ten high payload bits, or
gets mantissa 1 where they are all zero. -/
def Obligations.ReduceInfinitiesAndNans : Prop :=
  ∀ A : Word, floatExp A = 255 →
    halfSign (reduceDirect A) = floatSign A ∧ halfExp (reduceDirect A) = 31 ∧
    (floatMant A = 0 → halfMant (reduceDirect A) = 0) ∧
    (floatMant A ≠ 0 → 2 ^ 13 ≤ (floatMant A).toNat →
      (halfMant (reduceDirect A)).toNat = (floatMant A).toNat / 2 ^ 13) ∧
    (floatMant A ≠ 0 → (floatMant A).toNat < 2 ^ 13 → halfMant (reduceDirect A) = 1)

/-- 42 R125, R126, R127: for `113 <= E <= 254` exponent and mantissa are one number, rounded to
nearest even at bit 13; a carry goes into the exponent, and past exponent 30 the result is the
infinity of the sign. The rounding add carries out of the mantissa exactly when `M >= 0x7FF000`. -/
def Obligations.ReduceRoundsNormals : Prop :=
  (∀ M : Nat, M < 2 ^ 23 → (roundSum M &&& 0x800000 ≠ 0 ↔ 0x7FF000 ≤ M)) ∧
  ∀ A : Word, 113 ≤ (floatExp A).toNat → (floatExp A).toNat ≤ 254 →
    ∃ n, n = ((floatExp A).toNat - 112) * 2 ^ 10 +
        nearestEven ((floatMant A).toNat / 2 ^ 13) ((floatMant A).toNat % 2 ^ 13) 0x1000 ∧
      (n < 31 * 2 ^ 10 → (reduceDirect A).toNat = (floatSign A).toNat * 2 ^ 15 + n) ∧
      (31 * 2 ^ 10 ≤ n → (reduceDirect A).toNat = (floatSign A).toNat * 2 ^ 15 + 0x7C00)

/-- 42 R129, R130, R131, R132: the three ways of the fast path. -/
def Obligations.FastPathDispatch : Prop :=
  ∀ A : Word,
    (A.toNat % 2 ^ 31 = 0 → (reduceFast A).toNat = A.toNat / 2 ^ 16) ∧
    (113 ≤ (floatExp A).toNat → (floatExp A).toNat ≤ 141 →
      (reduceFast A).toNat = (floatSign A).toNat * 2 ^ 15 + ((floatExp A).toNat - 112) * 2 ^ 10 +
        ((floatMant A).toNat + 0x0FFF + (floatMant A).toNat / 2 ^ 13 % 2) / 2 ^ 13) ∧
    (A.toNat % 2 ^ 31 ≠ 0 → (floatExp A).toNat < 113 ∨ 141 < (floatExp A).toNat →
      reduceFast A = reduceDirect A)

/-- 42 R136: the fast path and the direct path agree on all 2^32 operands, ties included. -/
def Obligations.FastAndDirectPathsAgree : Prop :=
  ∀ A : Word, reduceFast A = reduceDirect A

/-- 42 R137: `reduce_direct` is round-to-nearest-even: the half it gives is at least as near as any
finite half, a tie goes to the even mantissa, magnitudes from 65520 up give the infinity, and the
sign is kept. -/
def Obligations.ReduceRoundsToNearestEven : Prop :=
  ∀ A : Word, floatClass A ≠ .nan →
    halfSign (reduceDirect A) = floatSign A ∧
    (floatClass A = .infinity → halfClass (reduceDirect A) = .infinity) ∧
    (floatClass A ≠ .infinity → 65520 ≤ |finite32 A| →
      halfClass (reduceDirect A) = .infinity) ∧
    (floatClass A ≠ .infinity → |finite32 A| < 65520 →
      FiniteHalf (reduceDirect A) ∧
      ∀ g : Half, FiniteHalf g →
        |finite16 (reduceDirect A) - finite32 A| ≤ |finite16 g - finite32 A| ∧
        (finite16 g ≠ finite16 (reduceDirect A) →
          |finite16 (reduceDirect A) - finite32 A| = |finite16 g - finite32 A| →
          (halfMant (reduceDirect A)).getLsbD 0 = false))

/-- 42 R138: the overflow threshold, for both signs. -/
def Obligations.OverflowThreshold : Prop :=
  reduceDirect 0x477FEFFF#32 = 0x7BFF#16 ∧ reduceDirect 0x477FF000#32 = 0x7C00#16 ∧
  (∀ A : Word, A.toNat ≤ 0x477FEFFF → FiniteHalf (reduceDirect A)) ∧
  (∀ A : Word, 0x477FF000 ≤ A.toNat → A.toNat < 0x7F800000 → reduceDirect A = 0x7C00#16) ∧
  (∀ A : Word, 143 ≤ (floatExp A).toNat → (floatExp A).toNat ≤ 254 →
    (reduceDirect A).toNat = (floatSign A).toNat * 2 ^ 15 + 0x7C00) ∧
  (∀ A : Word, A.toNat < 2 ^ 31 → (reduceDirect (A ||| 0x80000000#32)).toNat =
    (reduceDirect A).toNat + 2 ^ 15)

/-- 42 R139: the underflow threshold. -/
def Obligations.UnderflowThreshold : Prop :=
  (∀ A : Word, A.toNat < 2 ^ 31 → (reduceDirect A = 0x0000#16 ↔ A.toNat ≤ 0x33000000)) ∧
  reduceDirect 0x33000001#32 = 0x0001#16 ∧
  (∀ A : Word, A.toNat < 0x33000001 → reduceDirect A ≠ 0x0001#16) ∧
  (∀ A : Word, (floatExp A).toNat ≤ 101 → halfExp (reduceDirect A) = 0 ∧
    halfMant (reduceDirect A) = 0)

/-- 42 R140: narrowing an expanded half gives it back, NaNs included, by either path. The part about
NaNs rests on decisions D15 and D16 of the spec. -/
def Obligations.NarrowingUndoesWidening : Prop :=
  ∀ h : Half, reduceDirect (expand h) = h ∧ reduceFast (expand h) = h

/-- 42 R141: every result keeps the sign. -/
def Obligations.ReductionKeepsTheSign : Prop :=
  ∀ A : Word, (reduceDirect A).getLsbD 15 = A.getLsbD 31 ∧
    (reduceFast A).getLsbD 15 = A.getLsbD 31

/-- 42 R142: the ranges of the internal sums: none wraps, and the dispatch add changes no sign. -/
def Obligations.InternalSumsDoNotWrap : Prop :=
  (∀ M : Nat, M < 2 ^ 23 → 0x000FFF ≤ roundSum M ∧ roundSum M ≤ 0x800FFF) ∧
  (∀ M t : Nat, M < 2 ^ 23 → 14 ≤ t → t ≤ 24 →
    (M ||| 0x800000) + (2 ^ (t - 1) - 1) + (((M ||| 0x800000) >>> t) &&& 1) < 2 ^ 24 + 2 ^ 23 ∧
    roundSubnormal M t ≤ 0x400) ∧
  (∀ (i : BitVec 9) (M : Nat), M < 2 ^ 23 → elut i ≠ 0#16 →
    (elut i).toNat ≤ 0xF400 ∧ (elut i).toNat + (roundSum M >>> 13) ≤ 0xF800 ∧
    ((elut i).toNat + (roundSum M >>> 13)) / 2 ^ 15 = (elut i).toNat / 2 ^ 15) ∧
  (∀ A : Word, -112 ≤ reduceExp A ∧ reduceExp A ≤ 143 ∧
    ((floatExp A).toNat ≤ 254 → reduceExp A + 1 ≤ 143))

/-- 42 R143: a NaN gives a NaN, which widens to a NaN; nothing else gives a NaN. 40 R85: no conversion
changes the quiet bit of a NaN. -/
def Obligations.NanInNanOut : Prop :=
  (∀ A : Word,
    (floatClass A = .nan →
      halfClass (reduceDirect A) = .nan ∧ floatClass (expand (reduceDirect A)) = .nan ∧
      halfQuiet (reduceDirect A) = floatQuiet A) ∧
    (floatClass A ≠ .nan → halfClass (reduceDirect A) ≠ .nan)) ∧
  (∀ h : Half, halfClass h = .nan → floatQuiet (expand h) = halfQuiet h)

/-! ## Tables (43) -/

/-- 43 R150, R151: ELUT by ranges of its index; 58 entries are non-zero and 454 are zero. -/
def Obligations.DispatchTableListing : Prop :=
  (∀ i : BitVec 9,
    (i.toNat ≤ 112 → elut i = 0#16) ∧
    (113 ≤ i.toNat → i.toNat ≤ 141 → (elut i).toNat = (i.toNat - 112) * 2 ^ 10) ∧
    (142 ≤ i.toNat → i.toNat ≤ 368 → elut i = 0#16) ∧
    (369 ≤ i.toNat → i.toNat ≤ 397 → (elut i).toNat = 0x8000 + (i.toNat - 368) * 2 ^ 10) ∧
    (398 ≤ i.toNat → elut i = 0#16)) ∧
  (List.range 512).countP (fun i => elut (BitVec.ofNat 9 i) != 0#16) = 58 ∧
  (List.range 512).countP (fun i => elut (BitVec.ofNat 9 i) == 0#16) = 454

/-- 43 R153: HLUT by ranges of its index. -/
def Obligations.ExpansionTableListing : Prop :=
  (∀ h : Half,
    (0x0400 ≤ h.toNat → h.toNat ≤ 0x7BFF → (hlut h).toNat = (h.toNat + 0x1C000) * 2 ^ 13) ∧
    (0x7C01 ≤ h.toNat → h.toNat ≤ 0x7FFF →
      (hlut h).toNat = 0x7F800000 + (h.toNat % 2 ^ 10) * 2 ^ 13) ∧
    (0x8001 ≤ h.toNat → h.toNat ≤ 0xFBFF →
      hlut h = 0x80000000#32 ||| hlut (h &&& 0x7FFF#16)) ∧
    (0xFC01 ≤ h.toNat → (hlut h).toNat = 0xFF800000 + (h.toNat % 2 ^ 10) * 2 ^ 13) ∧
    (∀ p, 1 ≤ h.toNat → h.toNat ≤ 0x03FF → 2 ^ p ≤ h.toNat → h.toNat < 2 ^ (p + 1) →
      (hlut h).toNat = (p + 103) * 2 ^ 23 + h.toNat * 2 ^ (23 - p) % 2 ^ 23)) ∧
  hlut 0x0000#16 = 0x00000000#32 ∧ hlut 0x8000#16 = 0x80000000#32 ∧
  hlut 0x7C00#16 = 0x7F800000#32 ∧ hlut 0xFC00#16 = 0xFF800000#32

/-- 43 R156: half exponent 30 in the table would change no result; half exponent 31 would give a NaN
in place of an infinity. -/
def Obligations.DispatchBoundIsUnobservable : Prop :=
  (∀ A : Word, reduceByTable (elutUpTo 30) A = reduceFast A) ∧
  (∃ A : Word, floatClass A = .normal ∧ halfClass (reduceByTable (elutUpTo 31) A) = .nan)

/-- 43 R158: two builds that differ in `TABLE_IMPL` alone, once reset, present the same responses in the
same cycles of every run. The `Y` of a reserved request, a draw, is not compared. -/
def Obligations.TableImplIsUnobservable : Prop :=
  ∀ (k : Nat) (s : State) (impl : TableImpl), s.wasReset = true →
    List.Forall₂ PresentSame
      (presented k { s with params := { s.params with tableImpl := impl } }) (presented k s)

/-! ## IllegalOp (60) -/

/-- 60 R170: a request with an assigned op code completes in every state of a block that has been reset,
with `ILL = 0`. -/
def Obligations.AssignedRequestsAnswerLegally : Prop :=
  ∀ (w : Req) (s : State), Ready s → w.getLsbD 35 = false → ∃ y, AnswersWith (decode w) s y

/-- 60 R171: a request with a reserved op code (`op[3] = 1`) completes in every state of a block that has
been reset, and its response has `ILL = 1`. Nothing is said of `Y`: it is a draw. The rest is of the
model's own fields: the fault record (log 4) grows by one `IllegalOp` at an edge that accepts such a
request, at no other, and is never shortened; a draw is taken; two such requests at one state lead to one
state, since the model's draws are numbered by a counter (log 3). -/
def Obligations.ReservedRequestsAnswerIllegal : Prop :=
  (∀ (s : State) (op : OpCode) (a : Word), Ready s → op.getLsbD 3 = true →
    ∃ t y, exec (.reserved op a) s = .next t ∧ Advanced s t ⟨true, y, true⟩ ∧
      t.faults = .illegalOp :: s.faults ∧ s.draws < t.draws) ∧
  (∀ (s : State) (op op' : OpCode) (a a' : Word), op.getLsbD 3 = true → op'.getLsbD 3 = true →
    exec (.reserved op a) s = exec (.reserved op' a') s) ∧
  (∀ (s t : State), step s = .next t →
    ((∃ p rest, s.inputs = p :: rest ∧ accepts p ∧ p.op.getLsbD 3 = true) →
      t.faults = .illegalOp :: s.faults) ∧
    ((¬ ∃ p rest, s.inputs = p :: rest ∧ accepts p ∧ p.op.getLsbD 3 = true) →
      t.faults = s.faults))

/-! ## Reset, cycles, host (10, 20, 70) -/

/-- 10 R32: the state after reset, at the reference parameters. The latency 1 is the spec's reference
value (log 2); `rom` (log 2), the empty stream (log 1), the mark that a reset edge has come (log 6) and
the empty fault record (log 4) are the model's choice. -/
def Obligations.ResetStateHoldsTheResetValues : Prop :=
  Cleared State.reset ∧ State.reset.params = ⟨1, .rom⟩ ∧ State.reset.inputs = [] ∧
    State.reset.wasReset = true ∧ State.reset.faults = []

/-- The invariant of the block holds after reset. -/
def Obligations.BlockInvariantHoldsAtReset : Prop := State.reset.Inv

/-- 10 R29, 60 R171: every step keeps the invariant: the depth is the latency, the last stage drives
the outputs, and, once the block has been reset, every illegal response in flight is in the fault record
(the model's own, log 4). -/
def Obligations.EveryStepKeepsTheBlockInvariant : Prop :=
  ∀ s t : State, s.Inv → step s = .next t → t.Inv

/-- 00 R6, 10 R26: the parameters are fixed when the block is built: no step changes them. The rest is the
model's choice of its own fields: draws are never taken back (log 3), a step takes one edge off the host's
stream (log 1), and the mark of a block that has been reset is there exactly from the first reset edge on
(log 6). -/
def Obligations.NoStepReconfiguresTheBlock : Prop :=
  ∀ s t : State, step s = .next t →
    t.params = s.params ∧ s.draws ≤ t.draws ∧ t.inputs = s.inputs.tail ∧
      (t.wasReset = true ↔ s.wasReset = true ∨ ∃ p rest, s.inputs = p :: rest ∧ p.rst = true)

/-- 93 section 2: no behaviour is stuck: every step of every state answers a next state. -/
def Obligations.EveryStepAnswersANextState : Prop :=
  ∀ s : State, ∃ t, step s = .next t

/-- 70 R193: at an edge with `rst = 0` and `in_valid = 1` the step runs the operation the request word
decodes to; and the fetch the host's interface uses is such an edge. -/
def Obligations.StepRunsTheDecodedRequest : Prop :=
  (∀ (s : State) (p : InPorts) (rest : List InPorts), s.inputs = p :: rest → accepts p →
    step s = exec (decode (request p.op p.a)) { s with inputs := rest }) ∧
  (∀ (s : State) (w : Req),
    step (s.withFetchWord 40 w.toNat) = exec (decode w) { s with inputs := s.inputs.tail })

/-- 10 R22, 70 R191: with `in_valid = 0` the values of `in_op` and `in_a` have no effect; with
`rst = 1` neither has `in_valid`. That the two steps are equal in their draws too is the model's choice:
its draws are numbered by a counter (log 3). -/
def Obligations.UnreadInputsHaveNoEffect : Prop :=
  ∀ (s : State) (p q : InPorts) (rest : List InPorts), p.rst = q.rst →
    (p.rst = true ∨ (p.valid = false ∧ q.valid = false)) →
    step { s with inputs := p :: rest } = step { s with inputs := q :: rest }

/-- 60 R182, 70 R194: an idle edge only advances the pipeline: what enters is no response. A stream
with nothing left is idle (log 1). -/
def Obligations.IdleEdgesOnlyAdvanceThePipeline : Prop :=
  ∀ (s : State), Ready s →
    (s.inputs = [] ∨ ∃ p rest, s.inputs = p :: rest ∧ p.rst = false ∧ p.valid = false) →
    ∃ t y ill, step s = .next t ∧
      Advanced { s with inputs := s.inputs.tail } t ⟨false, y, ill⟩ ∧ t.faults = s.faults

/-- 70 R191: a reset edge clears every valid bit and accepts nothing, whatever the other inputs and
whatever the pipeline held; the parameters stay. That the fault record stays too is the model's choice:
the record is its own (log 4). What was accepted before it and not yet presented gets no response: while
no further request comes, none is ever presented. -/
def Obligations.ResetEdgeClearsAndDiscards : Prop :=
  ∀ (s : State) (p : InPorts) (rest : List InPorts), s.inputs = p :: rest → p.rst = true →
    (∃ t, step s = .next t ∧ Cleared t ∧ t.inputs = rest ∧ t.params = s.params ∧
      t.faults = s.faults) ∧
    (noRequest rest = true → ∀ k, responses k s = [])

/-- 70 R192: any number of reset edges, one at least, reaches the cleared state, and a request presented
at the very next edge without reset is accepted there. That the fault record stays is the model's choice:
the record is its own (log 4). -/
def Obligations.HoldingResetChangesNothing : Prop :=
  ∀ (s : State) (resets rest : List InPorts), s.inputs = resets ++ rest → resets ≠ [] →
    (∀ p ∈ resets, p.rst = true) →
    ∃ t, after resets.length s = some t ∧ Cleared t ∧ t.inputs = rest ∧
      t.params = s.params ∧ t.faults = s.faults ∧
      (∀ p later, rest = p :: later → accepts p →
        step t = exec (decode (request p.op p.a)) { t with inputs := later })

/-- 10 R33: at power-up and after every edge without reset up to the first reset edge, whatever
operation is presented and whatever the latency, every stage and every output is a draw, the valid bits
too, so a spurious response is possible and none can be relied on. That the draws are numbered and taken
anew at each edge is the model's way to leave the bits open (logs 3, 6). -/
def Obligations.BeforeTheFirstResetEverythingIsADraw : Prop :=
  (∀ (params : Params) (inputs : List InPorts), Unknown params 0 (powerUp params inputs) ∧
    (powerUp params inputs).inputs = inputs) ∧
  (∀ (s : State) (i : Instr), s.wasReset = false →
    ∃ t, exec i s = .next t ∧ Unknown s.params s.draws t ∧ t.inputs = s.inputs) ∧
  (∀ s : State, s.wasReset = false → (∀ p rest, s.inputs = p :: rest → p.rst = false) →
    ∃ t, step s = .next t ∧ Unknown s.params s.draws t ∧ t.inputs = s.inputs.tail)

/-- 70 R198, 10 R33: from power-up, where every bit of the pipeline is a draw, one reset edge gives a
cleared block that meets the invariant; the fault record, the model's own (log 4), is the one of
power-up, and the mark that a reset edge has come, the model's own too (log 6), is set. -/
def Obligations.FirstResetAfterPowerUpClears : Prop :=
  ∀ (params : Params) (p : InPorts) (rest : List InPorts), p.rst = true →
    ∃ t, step (powerUp params (p :: rest)) = .next t ∧ Cleared t ∧ t.Inv ∧
      t.wasReset = true ∧ t.params = params ∧ t.inputs = rest ∧ t.faults = (powerUp params (p :: rest)).faults

/-- 70 R195: with `LATENCY = 0` the outputs of a block that has been reset are combinational:
`out_valid = in_valid & ~rst`, and while it is 1 the outputs are the operation layer's answer to the same
cycle's inputs. -/
def Obligations.ZeroLatencyIsCombinational : Prop :=
  ∀ (s : State) (p : InPorts) (rest : List InPorts), s.wasReset = true →
    s.params.latency = 0 → s.inputs = p :: rest →
    ∃ t, step s = .next t ∧ t.out.valid = (p.valid && !p.rst) ∧
      (t.out.valid = true → (opLayer p.op p.a).onPorts t.out) ∧
      t.stages = []

/-- 70 R194: with `LATENCY = L >= 1` an edge without reset shifts the pipeline, `stage[1]` takes a
response exactly if the edge accepts a request, and `stage[L]` drives the outputs. So, in a block that has
been reset, a response is presented in cycle `n + L - 1` exactly when a request was accepted at edge `n`
and no edge of `n+1 .. n+L-1` has `rst = 1`, and then it is the operation layer's answer to that
request. -/
def Obligations.ResponsesComeAfterTheLatency : Prop :=
  (∀ s t : State, Ready s → 0 < s.params.latency →
    (∀ p rest, s.inputs = p :: rest → p.rst = false) → step s = .next t →
    (∀ k, k + 1 < s.params.latency → t.stages[k + 1]? = s.stages[k]?) ∧
    (∃ st, t.stages[0]? = some st ∧
      (st.v = true ↔ ∃ p rest, s.inputs = p :: rest ∧ accepts p)) ∧
    (∀ k last, s.params.latency = k + 1 → t.stages[k]? = some last →
      t.out = ⟨last.v, last.y, last.ill⟩)) ∧
  ∀ (s : State) (n : Nat), Ready s → 0 < s.params.latency →
    ∃ o, (observe (n + s.params.latency) s)[n + s.params.latency - 1]? = some o ∧
      (o.valid = true ↔
        (∃ p, s.inputs[n]? = some p ∧ accepts p) ∧
        ∀ j q, n < j → j < n + s.params.latency → s.inputs[j]? = some q → q.rst = false) ∧
      (∀ p, s.inputs[n]? = some p → o.valid = true →
        (opLayer p.op p.a).onPorts o)

/-- 20 R47, 70 R196: from a block with nothing in flight, every accepted request gets exactly one
response, in the order of acceptance, whatever the latency. -/
def Obligations.EveryRequestIsAnsweredOnceInOrder : Prop :=
  ∀ (s : State) (k : Nat), Ready s → s.Drained → noReset s.inputs = true →
    s.inputs.length + s.params.latency ≤ k →
    List.Forall₂ OpResult.allows (outcomes s.inputs) (responses k s)

/-- 10 R30: the responses to a stream of assigned requests are a function of the requests: two blocks
of any latency and any table implementation, after any history, with nothing in flight, answer equal
lists. No draw is among them: a draw compares equal to nothing (70 R200). -/
def Obligations.ResponsesDependOnRequestsAlone : Prop :=
  ∀ (s s' : State) (k k' : Nat), Ready s → Ready s' → s.Drained → s'.Drained →
    s.inputs = s'.inputs → noReset s.inputs = true →
    (∀ p ∈ s.inputs, accepts p → p.op.getLsbD 3 = false) →
    s.inputs.length + s.params.latency ≤ k → s'.inputs.length + s'.params.latency ≤ k' →
    sameObservation (responses k s) (responses k' s') = true

/-- 70 R200: the run ends in the cycle of the last response, `n + L - 1` after the last request's edge
`n` (the request's own cycle for `L = 0`), not before it, and nothing is presented after it. -/
def Obligations.RunEndsWithTheLastResponse : Prop :=
  (∀ (s : State) (pre : List InPorts) (p : InPorts), Ready s → s.inputs = pre ++ [p] →
    noReset s.inputs = true → accepts p →
    (∃ t, after (pre.length + max s.params.latency 1) s = some t ∧ t.runEnded = true) ∧
    (∀ j u, j < pre.length + max s.params.latency 1 → after j s = some u →
      u.runEnded = false)) ∧
  (∀ s : State, Ready s → s.runEnded = true → ∀ k, responses k s = [])
end

