-- ==== Sys2Proof/Laws/Fields.lean ====
section
/-! SUPPORT. Sys2Proof/Laws/Fields.lean: the fields of a word put together from its fields. -/

namespace Sys2Proof

@[simp] theorem request_op (op : OpCode) (a : Word) : Req.op (request op a) = op := by
  apply BitVec.eq_of_getLsbD_eq
  intro i hi
  simp only [Req.op, request, BitVec.getLsbD_extractLsb', BitVec.getLsbD_append]
  have : ¬ 32 + i < 32 := by omega
  simp [hi, this]

@[simp] theorem request_operand (op : OpCode) (a : Word) : Req.operand (request op a) = a := by
  apply BitVec.eq_of_getLsbD_eq
  intro i hi
  simp only [Req.operand, request, BitVec.getLsbD_extractLsb', BitVec.getLsbD_append]
  simp [hi]

@[simp] theorem request_fields (w : Req) : request w.op w.operand = w := by
  apply BitVec.eq_of_getLsbD_eq
  intro i hi
  simp only [Req.op, Req.operand, request, BitVec.getLsbD_append, BitVec.getLsbD_extractLsb']
  split
  · simp [*]
  · rename_i h
    have h1 : i - 32 < 4 := by omega
    have h2 : 32 + (i - 32) = i := by omega
    simp [h1, h2]

namespace Machine

@[simp] theorem floatSign_packFloat (s : BitVec 1) (e : BitVec 8) (m : BitVec 23) :
    floatSign (packFloat s e m) = s := by
  apply BitVec.eq_of_getLsbD_eq
  intro i hi
  simp only [floatSign, packFloat, BitVec.getLsbD_extractLsb', BitVec.getLsbD_append]
  have h1 : ¬ 31 + i < 23 := by omega
  have h2 : ¬ 31 + i - 23 < 8 := by omega
  have h3 : 31 + i - 23 - 8 = i := by omega
  simp [hi, h1, h2, h3]

@[simp] theorem floatExp_packFloat (s : BitVec 1) (e : BitVec 8) (m : BitVec 23) :
    floatExp (packFloat s e m) = e := by
  apply BitVec.eq_of_getLsbD_eq
  intro i hi
  simp only [floatExp, packFloat, BitVec.getLsbD_extractLsb', BitVec.getLsbD_append]
  have h1 : ¬ 23 + i < 23 := by omega
  have h2 : 23 + i - 23 = i := by omega
  simp [hi, h2]

@[simp] theorem floatMant_packFloat (s : BitVec 1) (e : BitVec 8) (m : BitVec 23) :
    floatMant (packFloat s e m) = m := by
  apply BitVec.eq_of_getLsbD_eq
  intro i hi
  simp only [floatMant, packFloat, BitVec.getLsbD_extractLsb', BitVec.getLsbD_append]
  simp [hi]

@[simp] theorem zext32_toNat (r : Half) : (zext32 r).toNat = r.toNat := by
  simp only [zext32, BitVec.toNat_setWidth]
  have := r.isLt
  omega

@[simp] theorem lowHalf_zext32 (r : Half) : lowHalf (zext32 r) = r := by
  apply BitVec.eq_of_getLsbD_eq
  intro i hi
  have : i < 32 := by omega
  simp [lowHalf, zext32, hi, this]

end Machine

end Sys2Proof
end

