-- ==== Sys2Proof/Laws/State.lean ====
section
/-! SUPPORT. Sys2Proof/Laws/State.lean: one lemma per field of State per operation on State, so that no
later proof unfolds a record update. -/

namespace Sys2Proof.Machine

section Fields

variable (s : State) (st : Stage) (y : Word) (nbits w : Nat)

@[simp] theorem unknownEdge_params : s.unknownEdge.params = s.params := rfl
@[simp] theorem unknownEdge_wasReset : s.unknownEdge.wasReset = s.wasReset := rfl
@[simp] theorem unknownEdge_inputs : s.unknownEdge.inputs = s.inputs := rfl
@[simp] theorem unknownEdge_faults : s.unknownEdge.faults = s.faults := rfl
@[simp] theorem unknownEdge_draws :
    s.unknownEdge.draws = s.draws + max s.params.latency 1 := rfl
@[simp] theorem unknownEdge_stages :
    s.unknownEdge.stages = unknownStages s.draws s.params.latency := rfl
@[simp] theorem unknownEdge_out : s.unknownEdge.out =
    outputsOf (unknownStages s.draws s.params.latency) (unknownStage s.draws) := rfl

/-- Once reset, an edge without reset shifts the pipeline. -/
theorem shiftIn_of_reset (h : s.wasReset = true) : s.shiftIn st =
    { s with
      stages := (st :: s.stages).take s.params.latency
      out := outputsOf ((st :: s.stages).take s.params.latency) st } := by
  simp [State.shiftIn, h]

/-- Before the first reset, an edge without reset draws everything anew. -/
theorem shiftIn_of_not_reset (h : s.wasReset = false) : s.shiftIn st = s.unknownEdge := by
  simp [State.shiftIn, h]

@[simp] theorem shiftIn_params : (s.shiftIn st).params = s.params := by
  cases h : s.wasReset <;> simp [State.shiftIn, h]
@[simp] theorem shiftIn_wasReset : (s.shiftIn st).wasReset = s.wasReset := by
  cases h : s.wasReset <;> simp [State.shiftIn, h]
@[simp] theorem shiftIn_inputs : (s.shiftIn st).inputs = s.inputs := by
  cases h : s.wasReset <;> simp [State.shiftIn, h]
@[simp] theorem shiftIn_faults : (s.shiftIn st).faults = s.faults := by
  cases h : s.wasReset <;> simp [State.shiftIn, h]
@[simp] theorem shiftIn_draws (h : s.wasReset = true) : (s.shiftIn st).draws = s.draws := by
  rw [shiftIn_of_reset s st h]
@[simp] theorem shiftIn_stages (h : s.wasReset = true) :
    (s.shiftIn st).stages = (st :: s.stages).take s.params.latency := by
  rw [shiftIn_of_reset s st h]
@[simp] theorem shiftIn_out (h : s.wasReset = true) :
    (s.shiftIn st).out = outputsOf ((st :: s.stages).take s.params.latency) st := by
  rw [shiftIn_of_reset s st h]

@[simp] theorem respond_params : (s.respond y).params = s.params := shiftIn_params s _
@[simp] theorem respond_wasReset : (s.respond y).wasReset = s.wasReset := shiftIn_wasReset s _
@[simp] theorem respond_inputs : (s.respond y).inputs = s.inputs := shiftIn_inputs s _
@[simp] theorem respond_faults : (s.respond y).faults = s.faults := shiftIn_faults s _
@[simp] theorem respond_draws :
    (s.respond y).draws = (s.shiftIn (responseStage y)).draws := rfl
@[simp] theorem respond_stages : (s.respond y).stages = (s.shiftIn (responseStage y)).stages := rfl
@[simp] theorem respond_out : (s.respond y).out = (s.shiftIn (responseStage y)).out := rfl

@[simp] theorem raiseIllegalOp_params : s.raiseIllegalOp.params = s.params := shiftIn_params s _
@[simp] theorem raiseIllegalOp_wasReset : s.raiseIllegalOp.wasReset = s.wasReset :=
  shiftIn_wasReset s _
@[simp] theorem raiseIllegalOp_inputs : s.raiseIllegalOp.inputs = s.inputs := shiftIn_inputs s _
@[simp] theorem raiseIllegalOp_faults : s.raiseIllegalOp.faults = .illegalOp :: s.faults := rfl
@[simp] theorem raiseIllegalOp_draws :
    s.raiseIllegalOp.draws = (s.shiftIn (illegalStage s.draws)).draws + 1 := rfl
@[simp] theorem raiseIllegalOp_stages :
    s.raiseIllegalOp.stages = (s.shiftIn (illegalStage s.draws)).stages := rfl
@[simp] theorem raiseIllegalOp_out :
    s.raiseIllegalOp.out = (s.shiftIn (illegalStage s.draws)).out := rfl

@[simp] theorem idleEdge_params : s.idleEdge.params = s.params := shiftIn_params s _
@[simp] theorem idleEdge_wasReset : s.idleEdge.wasReset = s.wasReset := shiftIn_wasReset s _
@[simp] theorem idleEdge_inputs : s.idleEdge.inputs = s.inputs := shiftIn_inputs s _
@[simp] theorem idleEdge_faults : s.idleEdge.faults = s.faults := shiftIn_faults s _
@[simp] theorem idleEdge_draws :
    s.idleEdge.draws = (s.shiftIn (emptyStage s.draws)).draws + 1 := rfl
@[simp] theorem idleEdge_stages :
    s.idleEdge.stages = (s.shiftIn (emptyStage s.draws)).stages := rfl
@[simp] theorem idleEdge_out : s.idleEdge.out = (s.shiftIn (emptyStage s.draws)).out := rfl

@[simp] theorem resetEdge_params : s.resetEdge.params = s.params := rfl
@[simp] theorem resetEdge_wasReset : s.resetEdge.wasReset = true := rfl
@[simp] theorem resetEdge_inputs : s.resetEdge.inputs = s.inputs := rfl
@[simp] theorem resetEdge_draws : s.resetEdge.draws = s.draws + max s.params.latency 1 := rfl
@[simp] theorem resetEdge_faults : s.resetEdge.faults = s.faults := rfl
@[simp] theorem resetEdge_stages :
    s.resetEdge.stages = emptyStages s.draws s.params.latency := rfl
@[simp] theorem resetEdge_out :
    s.resetEdge.out = outputsOf (emptyStages s.draws s.params.latency) (emptyStage s.draws) := rfl

@[simp] theorem withFetchWord_params : (s.withFetchWord nbits w).params = s.params := rfl
@[simp] theorem withFetchWord_wasReset : (s.withFetchWord nbits w).wasReset = s.wasReset := rfl
@[simp] theorem withFetchWord_stages : (s.withFetchWord nbits w).stages = s.stages := rfl
@[simp] theorem withFetchWord_out : (s.withFetchWord nbits w).out = s.out := rfl
@[simp] theorem withFetchWord_draws : (s.withFetchWord nbits w).draws = s.draws := rfl
@[simp] theorem withFetchWord_faults : (s.withFetchWord nbits w).faults = s.faults := rfl
@[simp] theorem withFetchWord_inputs : (s.withFetchWord nbits w).inputs =
    requestPorts (BitVec.ofNat 36 (w % 2 ^ nbits)) :: s.inputs.tail := rfl

end Fields

@[simp] theorem emptyStage_v (n : Nat) : (emptyStage n).v = false := rfl
@[simp] theorem responseStage_v (y : Word) : (responseStage y).v = true := rfl
@[simp] theorem responseStage_y (y : Word) : (responseStage y).y = y := rfl
@[simp] theorem responseStage_ill (y : Word) : (responseStage y).ill = false := rfl
@[simp] theorem illegalStage_v (n : Nat) : (illegalStage n).v = true := rfl
@[simp] theorem illegalStage_ill (n : Nat) : (illegalStage n).ill = true := rfl
@[simp] theorem drive_valid (st : Stage) : st.drive.valid = st.v := rfl
@[simp] theorem drive_y (st : Stage) : st.drive.y = st.y := rfl
@[simp] theorem drive_illegal (st : Stage) : st.drive.illegal = st.ill := rfl

end Sys2Proof.Machine
end

