-- ==== Sys2Proof/Laws/Ops.lean ====
section
/-! SUPPORT. Sys2Proof/Laws/Ops.lean: what each shared operation does, once: the pipeline at an edge,
the empty stages of a reset, the sampling of the ports, the edge that accepts a request, and the one
case split of a step. -/

namespace Sys2Proof.Machine

/-- With no stage the outputs are what enters; with one or more they are the last stage's. -/
@[simp] theorem outputsOf_nil (st : Stage) : outputsOf [] st = st.drive := rfl

theorem outputsOf_eq_last {pipe : List Stage} {last : Stage} (st : Stage)
    (h : pipe.getLast? = some last) : outputsOf pipe st = last.drive := by
  simp [outputsOf, List.getLastD_eq_getLast?, h]

@[simp] theorem emptyStages_length (n k : Nat) : (emptyStages n k).length = k := by
  induction k generalizing n with
  | zero => rfl
  | succ k ih => simp [emptyStages, ih]

theorem emptyStages_invalid {n k : Nat} {st : Stage} (h : st ∈ emptyStages n k) : st.v = false := by
  induction k generalizing n with
  | zero => simp [emptyStages] at h
  | succ k ih =>
    simp only [emptyStages, List.mem_cons] at h
    rcases h with rfl | h
    · rfl
    · exact ih h

/-- After a reset edge `out_valid = 0`, whatever the latency. -/
theorem resetEdge_out_valid (s : State) : s.resetEdge.out.valid = false := by
  rw [resetEdge_out]
  cases h : (emptyStages s.draws s.params.latency).getLast? with
  | none =>
    rw [List.getLast?_eq_none_iff] at h
    simp [h]
  | some last =>
    rw [outputsOf_eq_last _ h]
    exact emptyStages_invalid (List.mem_of_getLast? h)

@[simp] theorem unknownStages_length (n k : Nat) : (unknownStages n k).length = k := by
  induction k generalizing n with
  | zero => rfl
  | succ k ih => simp [unknownStages, ih]

/-- Every stage before the first reset is a draw of its own. -/
theorem unknownStages_getElem? {n k j : Nat} (h : j < k) :
    (unknownStages n k)[j]? = some (unknownStage (n + j)) := by
  induction k generalizing n j with
  | zero => omega
  | succ k ih =>
    cases j with
    | zero => rfl
    | succ j =>
      rw [unknownStages, List.getElem?_cons_succ, ih (by omega)]
      simp [Nat.add_comm, Nat.add_left_comm]

theorem unknownStages_mem {n k : Nat} {st : Stage} (h : st ∈ unknownStages n k) :
    ∃ m, n ≤ m ∧ m < n + k ∧ st = unknownStage m := by
  obtain ⟨j, hj⟩ := List.mem_iff_getElem?.mp h
  have hlt : j < k := by simpa using (List.getElem?_eq_some_iff.mp hj).1
  rw [unknownStages_getElem? hlt] at hj
  exact ⟨n + j, by omega, by omega, (Option.some.inj hj).symm⟩

/-- The pipeline keeps its depth at an edge without reset, before the first reset too. -/
theorem shiftIn_depth {s : State} (st : Stage) (h : s.stages.length = s.params.latency) :
    (s.shiftIn st).stages.length = s.params.latency := by
  cases hr : s.wasReset with
  | false => simp [shiftIn_of_not_reset s st hr]
  | true => simp [hr, h]

/-- The last stage drives the outputs at an edge without reset, before the first reset too (10 R29). -/
theorem shiftIn_driven (s : State) (st : Stage) {last : Stage}
    (h : (s.shiftIn st).stages.getLast? = some last) : (s.shiftIn st).out = last.drive := by
  cases hr : s.wasReset with
  | false =>
    rw [shiftIn_of_not_reset s st hr] at h ⊢
    exact outputsOf_eq_last _ h
  | true =>
    rw [shiftIn_stages s st hr] at h
    rw [shiftIn_out s st hr]
    exact outputsOf_eq_last st h

/-- `stage[k + 1]` takes what `stage[k]` held (70 R194). -/
theorem shiftIn_stage_succ {s : State} (st : Stage) {k : Nat} (hr : s.wasReset = true)
    (h : k + 1 < s.params.latency) : (s.shiftIn st).stages[k + 1]? = s.stages[k]? := by
  rw [shiftIn_stages s st hr, List.getElem?_take_of_lt h, List.getElem?_cons_succ]

/-- `stage[1]` takes what enters (70 R194). -/
theorem shiftIn_stage_zero {s : State} (st : Stage) (hr : s.wasReset = true)
    (h : 0 < s.params.latency) : (s.shiftIn st).stages[0]? = some st := by
  rw [shiftIn_stages s st hr, List.getElem?_take_of_lt h, List.getElem?_cons_zero]

/-- No edge gives draws back. -/
theorem shiftIn_draws_le (s : State) (st : Stage) : s.draws ≤ (s.shiftIn st).draws := by
  cases hr : s.wasReset with
  | false => simp [shiftIn_of_not_reset s st hr]
  | true => simp [hr]

theorem sample_nil {s : State} (h : s.inputs = []) : s.sample = (idlePorts, s) := by
  simp [State.sample, h]

theorem sample_cons {s : State} {p : InPorts} {rest : List InPorts}
    (h : s.inputs = p :: rest) : s.sample = (p, { s with inputs := rest }) := by
  simp [State.sample, h]

/-- What an edge is, by its two control inputs (70 R191, R193). -/
theorem edge_cases (p : InPorts) :
    (p.rst = true ∧ p.edge = .reset) ∨
    (p.rst = false ∧ p.valid = true ∧ p.edge = .request (decode (request p.op p.a))) ∨
    (p.rst = false ∧ p.valid = false ∧ p.edge = .idle) := by
  cases hr : p.rst <;> cases hv : p.valid <;> simp [InPorts.edge, hr, hv]

/-- The edge that accepts a request: the response of an assigned operation, or `IllegalOp`. The table
operations answer by the way their build has the tables. -/
theorem exec_cases (i : Instr) (s : State) :
    (∃ y, exec i s = .next (s.respond y)) ∨ exec i s = .next s.raiseIllegalOp := by
  cases i with
  | reserved op a => exact .inr rfl
  | _ => exact .inl ⟨_, rfl⟩

/-- Everything one step can do: a reset edge, an idle edge, or the acceptance of a request. -/
theorem step_cases (s : State) :
    step s = .next s.sample.2.resetEdge ∨ step s = .next s.sample.2.idleEdge ∨
    (∃ y, step s = .next (s.sample.2.respond y)) ∨ step s = .next s.sample.2.raiseIllegalOp := by
  have hs : step s = match s.sample.1.edge with
    | .reset => .next s.sample.2.resetEdge
    | .idle => .next s.sample.2.idleEdge
    | .request i => exec i s.sample.2 := rfl
  rcases edge_cases s.sample.1 with ⟨-, h⟩ | ⟨-, -, h⟩ | ⟨-, -, h⟩ <;> rw [h] at hs <;> rw [hs]
  · exact .inl rfl
  · exact .inr (.inr (exec_cases _ _))
  · exact .inr (.inl rfl)

end Sys2Proof.Machine
end

