-- ==== Sys2Proof/Laws/Observe.lean ====
section
/-! SUPPORT. Sys2Proof/Laws/Observe.lean: a run one cycle at a time, the comparison of observations, and
the state after reset as a reset edge leaves it. -/

namespace Sys2Proof.Machine

@[simp] theorem cycles_zero (s : State) : cycles 0 s = [] := rfl

theorem cycles_succ {s t : State} (h : step s = .next t) (k : Nat) :
    cycles (k + 1) s = t :: cycles k t := by
  simp [cycles, h]

@[simp] theorem observe_zero (s : State) : observe 0 s = [] := rfl

theorem observe_succ {s t : State} (h : step s = .next t) (k : Nat) :
    observe (k + 1) s = t.out :: observe k t := by
  simp [observe, cycles_succ h]

@[simp] theorem presented_zero (s : State) : presented 0 s = [] := rfl

theorem presented_succ {s t : State} (h : step s = .next t) (k : Nat) :
    presented (k + 1) s = t.response :: presented k t := by
  simp [presented, cycles_succ h]

@[simp] theorem after_zero (s : State) : after 0 s = some s := rfl

theorem after_succ {s t : State} (h : step s = .next t) (k : Nat) : after (k + 1) s = after k t := by
  simp [after, h]

@[simp] theorem responses_zero (s : State) : responses 0 s = [] := rfl

/-- The first cycle's response, if it presents one, comes first. -/
theorem responses_succ {s t : State} (h : step s = .next t) (k : Nat) :
    responses (k + 1) s = t.response.toList ++ responses k t := by
  simp only [responses, presented_succ h, List.filterMap_cons, id]
  cases t.response <;> rfl

@[simp] theorem outcomes_nil : outcomes [] = [] := rfl

theorem outcomes_cons (p : InPorts) (rest : List InPorts) :
    outcomes (p :: rest) = p.outcome.toList ++ outcomes rest := by
  simp only [outcomes, List.filterMap_cons]
  cases p.outcome <;> rfl

/-- A draw compares equal to nothing (70 R200). -/
@[simp] theorem same_draw_left (i : Option Bool) (b : Response) :
    Response.same ⟨none, i⟩ b = false := rfl

@[simp] theorem same_draw_right (i : Option Bool) (a : Response) :
    a.same ⟨none, i⟩ = false := by
  rcases a with ⟨_ | y, _ | j⟩ <;> rfl

/-- Responses compare equal exactly when both are without a draw and the same. -/
theorem same_iff (a b : Response) :
    a.same b = true ↔ ∃ y i, a = ⟨some y, some i⟩ ∧ b = ⟨some y, some i⟩ := by
  constructor
  · intro h
    rcases a with ⟨_ | y, _ | i⟩ <;> rcases b with ⟨_ | y', _ | i'⟩ <;>
      first
        | (simp only [Response.same, Bool.false_eq_true] at h; done)
        | (obtain ⟨rfl, rfl⟩ : y = y' ∧ i = i' := by simpa [Response.same] using h
           exact ⟨y, i, rfl, rfl⟩)
  · rintro ⟨y, i, rfl, rfl⟩
    simp [Response.same]

/-- State.reset is what a reset edge leaves of any state of the reference build that has taken no draw. -/
theorem resetEdge_reference (wasReset : Bool) (stages : List Stage) (out : OutPorts) :
    State.resetEdge ⟨Config.referenceParams, wasReset, stages, out, [], 0, []⟩ = State.reset := rfl

end Sys2Proof.Machine
end

