-- ==== Sys2Proof/Laws/PerInstr.lean ====
section
/-! SUPPORT. Sys2Proof/Laws/PerInstr.lean: the family RowFits: the encoding of every well-formed
operation is a word of its own row of the opcode map (30_encoding.md R64). -/

namespace Sys2Proof.Laws.RowFits

/-- The word of a well-formed operation is of its row. -/
def Statement (i : Instr) : Prop :=
  i.wf = true → ∃ r, opRows[i.rowIndex]? = some r ∧ r.covers (encode i) = true

/-- A row whose mask is the whole op field covers a word exactly by its op code. -/
theorem covers_of_op (op : OpCode) (a : Word) (name : String) :
    (OpRow.mk name (request op 0) 0xF00000000#36).covers (request op a) = true := by
  simp only [OpRow.covers, beq_iff_eq]
  apply BitVec.eq_of_getLsbD_eq
  intro k hk
  simp only [request, BitVec.getLsbD_and, BitVec.getLsbD_append, BitVec.getLsbD_ofNat]
  by_cases h : k < 32
  · have h32 : ∀ k < 32, Nat.testBit 0xF00000000 k = false := by decide
    simp [h, hk, h32 k h]
  · have hm : ∀ j < 4, Nat.testBit 0xF00000000 (32 + j) = true := by decide
    have h1 := hm (k - 32) (by omega)
    rw [show 32 + (k - 32) = k by omega] at h1
    simp [h, hk, h1]

theorem f32tou32 (a : Word) : Statement (.f32tou32 a) :=
  fun _ => ⟨_, rfl, covers_of_op 0x0#4 a _⟩

theorem u32tof32 (a : Word) : Statement (.u32tof32 a) :=
  fun _ => ⟨_, rfl, covers_of_op 0x1#4 a _⟩

theorem f16tou16 (a : Word) : Statement (.f16tou16 a) :=
  fun _ => ⟨_, rfl, covers_of_op 0x2#4 a _⟩

theorem u16tof16 (a : Word) : Statement (.u16tof16 a) :=
  fun _ => ⟨_, rfl, covers_of_op 0x3#4 a _⟩

theorem h2f (a : Word) : Statement (.h2f a) :=
  fun _ => ⟨_, rfl, covers_of_op 0x4#4 a _⟩

theorem h2fLut (a : Word) : Statement (.h2fLut a) :=
  fun _ => ⟨_, rfl, covers_of_op 0x5#4 a _⟩

theorem f2h (a : Word) : Statement (.f2h a) :=
  fun _ => ⟨_, rfl, covers_of_op 0x6#4 a _⟩

theorem f2hFast (a : Word) : Statement (.f2hFast a) :=
  fun _ => ⟨_, rfl, covers_of_op 0x7#4 a _⟩

theorem reserved (op : OpCode) (a : Word) : Statement (.reserved op a) := by
  intro h
  refine ⟨_, rfl, ?_⟩
  simp only [Instr.wf] at h
  simp only [OpRow.covers, beq_iff_eq, encode, Instr.opCode, Instr.operand]
  apply BitVec.eq_of_getLsbD_eq
  intro k hk
  simp only [request, BitVec.getLsbD_and, BitVec.getLsbD_append, BitVec.getLsbD_ofNat]
  by_cases h35 : k = 35
  · subst h35
    simp [h]
  · have hm : ∀ j < 36, j ≠ 35 → Nat.testBit 0x800000000 j = false := by decide
    simp [hm k hk h35]

end Sys2Proof.Laws.RowFits
end

