-- ==== Sys2Proof/Tests/Slice0.lean ====
section
/-! SUPPORT. Sys2Proof/Tests/Slice0.lean: tests of the model against the spec's own vectors
(95_test_vectors.md) and words written out from its encoding (30_encoding.md), and, for every statement
with hypotheses, a witness that meets them. No expected value comes from the model. -/

namespace Sys2Proof.Tests

open Sys2Proof.Machine Sys2Proof.Claims

/-! ## Well-formedness -/

/-- 30 R64: 0x3 is assigned, so no reserved request carries it. -/
theorem test_wf_refuses_assigned_code_as_reserved :
    Instr.wf (.reserved 0x3#4 0x00000000#32) = false := by decide

theorem test_wf_refuses_highest_assigned_code_as_reserved :
    Instr.wf (.reserved 0x7#4 0xFFFFFFFF#32) = false := by decide

theorem test_wf_accepts_lowest_reserved_code :
    Instr.wf (.reserved 0x8#4 0x00000000#32) = true := by decide

/-! ## Decoding: words written out bit by bit from 30 R60, R64 and opcode_table.json -/

theorem test_decode_f32tou32 :
    decode 0b000000111111100000000000000000000000#36 =
      .f32tou32 0x3F800000#32 := by decide

theorem test_decode_u32tof32 :
    decode 0b000101111111100000000000000000000001#36 =
      .u32tof32 0x7F800001#32 := by decide

theorem test_decode_f16tou16 :
    decode 0b001000010010001101000111110000000001#36 =
      .f16tou16 0x12347C01#32 := by decide

theorem test_decode_u16tof16 :
    decode 0b001111111111111111110011110000000000#36 =
      .u16tof16 0xFFFF3C00#32 := by decide

theorem test_decode_h2f :
    decode 0b010000000000000000000011110000000000#36 =
      .h2f 0x00003C00#32 := by decide

theorem test_decode_h2f_lut :
    decode 0b010100000000000000001000000000000000#36 =
      .h2fLut 0x00008000#32 := by decide

theorem test_decode_f2h :
    decode 0b011000111111100000000011000000000000#36 =
      .f2h 0x3F803000#32 := by decide

theorem test_decode_f2h_fast :
    decode 0b011101000111011111111110000000000000#36 =
      .f2hFast 0x477FE000#32 := by decide

theorem test_decode_reserved :
    decode 0b100000000000000000000000000000000000#36 =
      .reserved 0x8#4 0x00000000#32 := by decide

/-- 95 section 2.5: op 0x7 is assigned, whatever the operand. -/
theorem test_decode_highest_assigned_word :
    decode 0x7FFFFFFFF#36 = .f2hFast 0xFFFFFFFF#32 := by decide

/-- 30 R60: a word of more than 36 bits is no request. -/
theorem test_decode_rejects_wider_word :
    decodeNat 0x1000000000 = .error .widerThanRequest := by decide

theorem test_decode_table_word : decodeTableWord 40 0x400003C00 = some (.h2f 0x00003C00#32) := by
  decide

/-- 30 R64: no two rows of the map share a word: some bit that both fix differs. -/
theorem test_rows_are_disjoint :
    opRows.Pairwise (fun r r' => (r.value ^^^ r'.value) &&& (r.mask &&& r'.mask) ≠ 0) := by decide

/-! ## The operation layer: the tables of 95 section 2 -/

/-- The rows of 95 section 2.1: request word and `Y`. -/
def reinterpretRows : List (BitVec 36 × BitVec 32) :=
  [(0x03F800000#36, 0x3F800000#32), (0x080000000#36, 0x80000000#32), (0x07FC00001#36, 0x7FC00001#32),
   (0x0FFFFFFFF#36, 0xFFFFFFFF#32), (0x100000001#36, 0x00000001#32), (0x17F800001#36, 0x7F800001#32),
   (0x100000000#36, 0x00000000#32), (0x200007C01#36, 0x00007C01#32), (0x212347C01#36, 0x00007C01#32),
   (0x200008000#36, 0x00008000#32), (0x30000FFFF#36, 0x0000FFFF#32), (0x3FFFF3C00#36, 0x00003C00#32),
   (0x300000001#36, 0x00000001#32)]

/-- The rows of 95 section 2.2: operand and `Y` of `H2F` and `H2F.LUT`. -/
def expandRows : List (BitVec 32 × BitVec 32) :=
  [(0x00000000#32, 0x00000000#32), (0x00008000#32, 0x80000000#32), (0x00000001#32, 0x33800000#32),
   (0x00008001#32, 0xB3800000#32), (0x00000002#32, 0x34000000#32), (0x00000003#32, 0x34400000#32),
   (0x00000155#32, 0x37AA8000#32), (0x00000200#32, 0x38000000#32), (0x000003FF#32, 0x387FC000#32),
   (0x000083FF#32, 0xB87FC000#32), (0x00000400#32, 0x38800000#32), (0x00000401#32, 0x38802000#32),
   (0x00003555#32, 0x3EAAA000#32), (0x00003BFF#32, 0x3F7FE000#32), (0x00003C00#32, 0x3F800000#32),
   (0x00003C01#32, 0x3F802000#32), (0x0000BC00#32, 0xBF800000#32)] ++
  [(0x00004000#32, 0x40000000#32), (0x00004248#32, 0x40490000#32), (0x00005640#32, 0x42C80000#32),
   (0x00007800#32, 0x47000000#32), (0x00007BFF#32, 0x477FE000#32), (0x0000FBFF#32, 0xC77FE000#32),
   (0x00007C00#32, 0x7F800000#32), (0x0000FC00#32, 0xFF800000#32), (0x00007C01#32, 0x7F802000#32),
   (0x00007D00#32, 0x7FA00000#32), (0x00007E00#32, 0x7FC00000#32), (0x00007FFF#32, 0x7FFFE000#32),
   (0x0000FE00#32, 0xFFC00000#32), (0x0000FFFF#32, 0xFFFFE000#32), (0xFFFF3C00#32, 0x3F800000#32),
   (0xABCD0001#32, 0x33800000#32)]

/-- The rows of 95 section 2.3: operand and `Y` of `F2H` and `F2H.FAST`. -/
def reduceRows : List (BitVec 32 × BitVec 32) :=
  [(0x00000000#32, 0x00000000#32), (0x80000000#32, 0x00008000#32), (0x00000001#32, 0x00000000#32),
   (0x80000001#32, 0x00008000#32), (0x007FFFFF#32, 0x00000000#32), (0x2EDBE6FF#32, 0x00000000#32),
   (0x32FFFFFF#32, 0x00000000#32), (0x33000000#32, 0x00000000#32), (0x33000001#32, 0x00000001#32),
   (0x33800000#32, 0x00000001#32), (0x33C00000#32, 0x00000002#32), (0x34200000#32, 0x00000002#32),
   (0xB3C00000#32, 0x00008002#32), (0x38000000#32, 0x00000200#32), (0x387FC000#32, 0x000003FF#32),
   (0x387FE000#32, 0x00000400#32), (0x387FF000#32, 0x00000400#32)] ++
  [(0x38800000#32, 0x00000400#32), (0x3EAAAAAB#32, 0x00003555#32), (0x3F800000#32, 0x00003C00#32),
   (0xBF800000#32, 0x0000BC00#32), (0x3F801000#32, 0x00003C00#32), (0x3F801001#32, 0x00003C01#32),
   (0x3F803000#32, 0x00003C02#32), (0x3F802FFF#32, 0x00003C01#32), (0x3FFFF000#32, 0x00004000#32),
   (0x40490FDB#32, 0x00004248#32), (0x3C23D70A#32, 0x0000211F#32), (0xC2F6E979#32, 0x0000D7B7#32),
   (0x46FFEFFF#32, 0x000077FF#32), (0x46FFFFFF#32, 0x00007800#32), (0x47000000#32, 0x00007800#32),
   (0x477FE000#32, 0x00007BFF#32), (0x477FEFFF#32, 0x00007BFF#32)] ++
  [(0x477FF000#32, 0x00007C00#32), (0x477FFFFF#32, 0x00007C00#32), (0x47800000#32, 0x00007C00#32),
   (0x49742400#32, 0x00007C00#32), (0x7F7FFFFF#32, 0x00007C00#32), (0x7F800000#32, 0x00007C00#32),
   (0xFF800000#32, 0x0000FC00#32), (0x7F800001#32, 0x00007C01#32), (0x7F801FFF#32, 0x00007C01#32),
   (0x7F802000#32, 0x00007C01#32), (0x7FA00000#32, 0x00007D00#32), (0x7FC00000#32, 0x00007E00#32),
   (0xFFC00001#32, 0x0000FE00#32), (0x7FFFFFFF#32, 0x00007FFF#32), (0xFFFFFFFF#32, 0x0000FFFF#32)]

/-- The ELUT rows of 95 section 2.6. -/
def elutRows : List (BitVec 9 × BitVec 16) :=
  [(0x000#9, 0x0000#16), (0x070#9, 0x0000#16), (0x071#9, 0x0400#16),
   (0x07F#9, 0x3C00#16), (0x08D#9, 0x7400#16), (0x08E#9, 0x0000#16),
   (0x0FF#9, 0x0000#16), (0x100#9, 0x0000#16), (0x170#9, 0x0000#16),
   (0x171#9, 0x8400#16), (0x17F#9, 0xBC00#16), (0x18D#9, 0xF400#16),
   (0x18E#9, 0x0000#16), (0x1FF#9, 0x0000#16)]

/-- The HLUT rows of 95 section 2.6. -/
def hlutRows : List (BitVec 16 × BitVec 32) :=
  [(0x0000#16, 0x00000000#32), (0x0001#16, 0x33800000#32), (0x3C00#16, 0x3F800000#32),
   (0x7C00#16, 0x7F800000#32), (0xFFFF#16, 0xFFFFE000#32)]

theorem test_reinterpret_vectors :
    reinterpretRows.all (fun r => outcomeOf (decode r.1) == .value r.2) = true := by decide

theorem test_expand_vectors :
    expandRows.all (fun r => yH2f r.1 == r.2 && yH2fLut .rom r.1 == r.2) = true := by decide

theorem test_reduce_direct_vectors :
    reduceRows.all (fun r => yF2h r.1 == r.2) = true := by decide

theorem test_reduce_fast_vectors :
    reduceRows.all (fun r => yF2hFast .rom r.1 == r.2) = true := by decide

theorem test_elut_vectors : elutRows.all (fun r => elut r.1 == r.2) = true := by decide

theorem test_hlut_vectors : hlutRows.all (fun r => hlut r.1 == r.2) = true := by decide

/-- 40 R84: the derived constants 65504, 2^-14 and 2^-24. -/
theorem test_landmark_values :
    val16 0x7BFF#16 = .finite 65504 ∧ val16 0x0400#16 = .finite (1 / 2 ^ 14) ∧
      val16 0x0001#16 = .finite (1 / 2 ^ 24) := by
  have h1 : halfClass 0x7BFF#16 = .normal := by decide
  have h2 : halfClass 0x0400#16 = .normal := by decide
  have h3 : halfClass 0x0001#16 = .subnormal := by decide
  have e1 : (halfExp 0x7BFF#16).toNat = 30 := by decide
  have e2 : (halfExp 0x0400#16).toNat = 1 := by decide
  have n1 : halfExp 0x7BFF#16 ≠ 0 := by decide
  have n2 : halfExp 0x0400#16 ≠ 0 := by decide
  have n3 : halfExp 0x0001#16 = 0 := by decide
  have m1 : (halfMant 0x7BFF#16).toNat = 1023 := by decide
  have m2 : (halfMant 0x0400#16).toNat = 0 := by decide
  have m3 : (halfMant 0x0001#16).toNat = 1 := by decide
  have s1 : (halfSign 0x7BFF#16).toNat = 0 := by decide
  have s2 : (halfSign 0x0400#16).toNat = 0 := by decide
  have s3 : (halfSign 0x0001#16).toNat = 0 := by decide
  refine ⟨?_, ?_, ?_⟩
  · simp only [val16, h1, finite16, n1, if_false, signFactor, s1, e1, m1]; norm_num
  · simp only [val16, h2, finite16, n2, if_false, signFactor, s2, e2, m2]; norm_num [zpow_neg]
  · simp only [val16, h3, finite16, n3, if_true, signFactor, s3, m3]; norm_num [zpow_neg]

/-! ## The assembler (30 R68 to R70) -/

theorem test_assemble_example :
    (parseLine ['h', '2', 'f', ' ', '0', 'x', '3', 'C', '0', '0', ' ', ';', ' ', '1']).bind assemble =
      some [⟨false, true, 0x4#4, 0x00003C00#32⟩] := by decide

theorem test_assemble_raw_reserved :
    (parseLine ['.', 'R', 'E', 'Q', ' ', '0', 'x', '9', '0', '0', '0', '0', '0', '0', '0', '0']).bind
      assemble = some [⟨false, true, 0x9#4, 0x00000000#32⟩] := by decide

/-- 30 R69: the word of `.REQ` is hexadecimal; a decimal word of 11 digits is no line (log 8). -/
theorem test_raw_word_is_hexadecimal :
    parseLine ['.', 'R', 'E', 'Q', ' ', '1', '2', '3', '4', '5', '6', '7', '8', '9', '0', '1'] = none := by
  decide

theorem test_word_listing :
    wordText 0x400003C00#36 = ['0', 'x', '4', '0', '0', '0', '0', '3', 'C', '0', '0'] := by decide

theorem test_response_listing :
    responseText (.value 0x3F800000#32) =
      ['-', '>', ' ', 'Y', '=', '0', 'x', '3', 'F', '8', '0', '0', '0', '0', '0',
       ' ', 'I', 'L', 'L', '=', '0'] := by decide

/-! ## One step -/

/-- A block of the given latency, reset, with nothing in flight, every bit zero. -/
def block (latency : Nat) (inputs : List InPorts) : State where
  params := ⟨latency, .rom⟩
  wasReset := true
  stages := List.replicate latency ⟨false, 0, false⟩
  out := ⟨false, 0, false⟩
  inputs := inputs
  draws := 0
  faults := []

/-- The outputs of the cycle one step leads to. -/
def outAfter (s : State) : Option OutPorts :=
  match step s with
  | .next t => some t.out
  | .fault _ => none
  | .refused _ => none

/-- The valid bits of the stages after one step. -/
def validAfter (s : State) : Option (List Bool) :=
  match step s with
  | .next t => some (t.stages.map (·.v))
  | .fault _ => none
  | .refused _ => none

/-- The length of the fault record after one step. -/
def faultsAfter (s : State) : Option Nat :=
  match step s with
  | .next t => some t.faults.length
  | .fault _ => none
  | .refused _ => none

/-- 95 P5, edge 1, `L = 0`. -/
theorem test_step_f32tou32 :
    outAfter (block 0 [requestPorts 0x0BF800000#36]) = some ⟨true, 0xBF800000#32, false⟩ := by decide

/-- 95 P5, edge 2, `L = 0`. -/
theorem test_step_u32tof32 :
    outAfter (block 0 [requestPorts 0x17F800001#36]) = some ⟨true, 0x7F800001#32, false⟩ := by decide

/-- 95 P5, edge 3, `L = 0`. -/
theorem test_step_f16tou16 :
    outAfter (block 0 [requestPorts 0x212347C01#36]) = some ⟨true, 0x00007C01#32, false⟩ := by decide

/-- 95 P5, edge 4, `L = 0`. -/
theorem test_step_u16tof16 :
    outAfter (block 0 [requestPorts 0x3FFFF3C00#36]) = some ⟨true, 0x00003C00#32, false⟩ := by decide

/-- 95 P1, edge 1, `L = 1`, through the host's interface and from reset. -/
theorem test_step_h2f :
    outAfter (State.reset.withFetchWord 40 0x400003C00) = some ⟨true, 0x3F800000#32, false⟩ := by
  decide

/-- 95 P1, edge 3, `L = 1`. -/
theorem test_step_h2f_lut :
    outAfter (block 1 [requestPorts 0x500008000#36]) = some ⟨true, 0x80000000#32, false⟩ := by decide

/-- 95 P2, edge 7, `L = 1`. -/
theorem test_step_f2h :
    outAfter (block 1 [requestPorts 0x63F803000#36]) = some ⟨true, 0x00003C02#32, false⟩ := by decide

/-- 95 P2, edge 2, `L = 1`. -/
theorem test_step_f2h_fast :
    outAfter (block 1 [requestPorts 0x7477FF000#36]) = some ⟨true, 0x00007C00#32, false⟩ := by decide

/-- 95 P2, edge 6, `L = 1`: `out_valid = 1`, `out_illegal = 1`; `out_y` is a draw. -/
theorem test_step_reserved :
    (outAfter (block 1 [requestPorts 0x900000000#36])).map (fun o => (o.valid, o.illegal)) =
      some (true, true) := by decide

/-- 95 P2: the model records one fault for the request at edge 6. -/
theorem test_step_reserved_records_fault :
    faultsAfter (block 1 [requestPorts 0x900000000#36]) = some 1 := by decide

/-- 95 P3, edge 1, `L = 2`: the response is in `stage[1]`, not yet on the outputs. -/
theorem test_step_latency_two :
    validAfter (block 2 [requestPorts 0x640490FDB#36]) = some [true, false] := by decide

/-- 95 P4, edge 2, `L = 2`: reset clears `stage[1]`. -/
theorem test_step_reset_discards :
    validAfter ⟨⟨2, .rom⟩, true, [⟨true, 0x3F800000#32, false⟩, ⟨false, 0, false⟩],
      ⟨false, 0, false⟩, [resetPorts], 0, []⟩ = some [false, false] := by decide

/-- 95 section 2.7: `in_valid = 1` and `rst = 1` is not accepted, `L = 1`. -/
theorem test_step_request_under_reset :
    validAfter (block 1 [⟨true, true, 0x4#4, 0x00003C00#32⟩]) = some [false] := by decide

/-- 95 section 2.7: the same with `L = 0`: `out_valid = 0`. -/
theorem test_step_request_under_reset_combinational :
    (outAfter (block 0 [⟨true, true, 0x4#4, 0x00003C00#32⟩])).map (·.valid) = some false := by decide

/-! ## Before the first reset (10 R33), and the comparison of responses (70 R200) -/

/-- 93 U3: after an idle edge before the first reset `out_valid` is a draw, not 0, `L = 1`. -/
theorem test_idle_edge_before_reset :
    (outAfter (powerUp ⟨1, .rom⟩ [idlePorts])).map (·.valid) = some (Config.drawValid 1) := rfl

/-- 70 R198: the first reset edge clears it, `L = 2`. -/
theorem test_first_reset_edge : validAfter (powerUp ⟨2, .rom⟩ [resetPorts]) = some [false, false] := rfl

/-- 70 R200: the response of 95 P2, edge 6, its `Y` a draw, does not even equal itself. -/
theorem test_draw_equals_nothing :
    Response.same ⟨none, some true⟩ ⟨none, some true⟩ = false := by decide

/-- 95 P2, edge 7, `L = 1`: assigned responses compare by `(Y, ILL)`. -/
theorem test_responses_compare :
    sameObservation (responses 1 (block 1 [requestPorts 0x63F803000#36]))
      [⟨some 0x00003C02#32, some false⟩] = true := by decide

/-- 95 P2, edge 6: a run with a reserved request has no observation equal to its own. -/
theorem test_reserved_observation :
    sameObservation (responses 1 (block 1 [requestPorts 0x900000000#36]))
      (responses 1 (block 1 [requestPorts 0x900000000#36])) = false := rfl

/-! ## Witnesses: concrete inputs that meet a statement's hypotheses, each clause at a boundary -/

/-- A request of `H2F 0x3C00`, one of a reserved code, an idle edge and a reset edge (95 P1, P2). -/
def sampleRequest : InPorts := requestPorts 0x400003C00#36

def sampleReserved : InPorts := requestPorts 0x900000000#36

/-- WordReinterpretationsCopyTheOperand, HalfReinterpretationsCopyTheLowHalf, HalfToFloatAnswersExpand,
ExpansionTableAnswersAsTheDirectPath, FloatToHalfAnswersReduceDirect, FastFloatToHalfAnswersReduceFast and
ReservedRequestsAnswerIllegal ask for this alone. -/
theorem witness_completion_statements :
    Ready (block 0 []) ∧ Ready (block 1 []) ∧ Ready (block 3 [sampleRequest]) ∧ Ready State.reset :=
  ⟨⟨rfl, rfl⟩, ⟨rfl, rfl⟩, ⟨rfl, rfl⟩, rfl, rfl⟩

/-- HalfOperandsAndResultsAreAssembled, ExpansionTableAnswersAsTheDirectPath,
FastFloatToHalfAnswersReduceFast and TableImplIsUnobservable ask for this. -/
theorem witness_wasReset : State.reset.wasReset = true ∧ (block 3 []).wasReset = true := ⟨rfl, rfl⟩

theorem witness_ReinterpretationsUndoEachOther :
    opLayer 0x1#4 0x3F800000#32 = .value 0x3F800000#32 ∧
    opLayer 0x0#4 0x3F800000#32 = .value 0x3F800000#32 ∧
    opLayer 0x3#4 ((0x7C00#16 : Half).setWidth 32) = .value 0x00007C00#32 ∧
    opLayer 0x2#4 ((0x7C00#16 : Half).setWidth 32) = .value 0x00007C00#32 := by decide

theorem witness_DecodeUndoesEncode :
    Instr.wf (.f2hFast 0xFFFFFFFF#32) = true ∧ Instr.wf (.reserved 0x8#4 0#32) = true ∧
    Instr.wf (.reserved 0xF#4 0xFFFFFFFF#32) = true := by decide

theorem witness_OpFieldAloneSelectsTheOperation :
    Req.op 0x7FFFFFFFF#36 = 0x7#4 ∧ (Req.op 0x7FFFFFFFF#36).toNat < 8 ∧
    8 ≤ (Req.op 0x800000000#36).toNat := by decide

theorem witness_RowsCoverEachWordOnce :
    ∃ r, opRows[8]? = some r ∧ r.covers 0xF12345678#36 = true := ⟨_, rfl, by decide⟩

theorem witness_HalfOperandsAndResultsAreAssembled :
    (0x12347C01#32).toNat % 2 ^ 16 = (0x00007C01#32).toNat % 2 ^ 16 ∧
    0x12347C01#32 ≠ 0x00007C01#32 ∧
    opLayer 0x2#4 0xDEAD8000#32 = .value 0x00008000#32 ∧
    opLayer 0x3#4 0xFFFF3C00#32 = .value 0x00003C00#32 ∧
    opLayer 0x6#4 0xFFC00001#32 = .value 0x0000FE00#32 ∧
    opLayer 0x7#4 0xFFC00001#32 = .value 0x0000FE00#32 := by decide

/-- 30 R68: `h2F.lUT 4294967295`, and `H2F 0x100000000`, which is no line. -/
theorem witness_RequestLinesEncodeTheirOperand :
    (['H', '2', 'F', '.', 'L', 'U', 'T'], 0x5#4) ∈ mnemonics ∧
    AnyCase ['h', '2', 'F', '.', 'l', 'U', 'T'] ['H', '2', 'F', '.', 'L', 'U', 'T'] ∧
    IsLiteral ['4', '2', '9', '4', '9', '6', '7', '2', '9', '5'] 4294967295 ∧
    4294967295 < 2 ^ 32 ∧
    IsLiteral ['0', 'x', '1', '0', '0', '0', '0', '0', '0', '0', '0'] (2 ^ 32) := by
  refine ⟨by decide, ?_, ⟨[4, 2, 9, 4, 9, 6, 7, 2, 9, 5], by decide, .inl (by decide)⟩, by decide,
    [1, 0, 0, 0, 0, 0, 0, 0, 0], by decide, .inr ⟨by decide, by decide, _, rfl, ?_⟩⟩
  · unfold AnyCase; decide
  · decide

theorem witness_AliasesAndDirectivesExpand :
    1 ≤ (1 : Nat) ∧ (parseLine (['H', '2', 'F', ' '] ++ ['7'])).isSome = true ∧
    IsLiteral ['0', 'x', 'f'] 15 := by
  refine ⟨by decide, by decide, [15], by decide, .inr ⟨by decide, by decide, _, rfl, ?_⟩⟩
  decide

theorem witness_ExpandZerosInfinitiesAndNans :
    (halfExp 0x8000#16 = 0 ∧ halfMant 0x8000#16 = 0) ∧
    (halfExp 0xFC00#16 = 31 ∧ halfMant 0xFC00#16 = 0) ∧
    (halfExp 0x7C01#16 = 31 ∧ halfMant 0x7C01#16 ≠ 0) := by decide

theorem witness_ExpandRenormalisesSubnormals :
    (halfExp 0x0001#16 = 0 ∧ halfMant 0x0001#16 ≠ 0) ∧
    (halfExp 0x83FF#16 = 0 ∧ halfMant 0x83FF#16 ≠ 0) := by decide

theorem witness_ExpandRebiasesNormals :
    (1 ≤ (halfExp 0x0400#16).toNat ∧ (halfExp 0x0400#16).toNat ≤ 30) ∧
    (1 ≤ (halfExp 0xFBFF#16).toNat ∧ (halfExp 0xFBFF#16).toNat ≤ 30) := by decide

theorem witness_ExpandIsExact :
    halfClass 0x7BFF#16 ≠ .nan ∧ halfClass 0x8001#16 ≠ .nan ∧ halfClass 0xFC00#16 ≠ .nan := by decide

theorem witness_ExpandMapsClassesInjectively :
    halfClass 0x8000#16 = .zero ∧ halfClass 0x03FF#16 = .subnormal ∧ halfClass 0x0400#16 = .normal ∧
    halfClass 0x7C00#16 = .infinity ∧ halfClass 0x7C01#16 = .nan ∧
    expand 0x3C00#16 = expand 0x3C00#16 := by decide

theorem witness_ExpandLeavesLowBitsZero : halfExp 0x0400#16 ≠ 0 ∧ halfExp 0xFFFF#16 ≠ 0 := by decide

theorem witness_ReduceUnderflowsToSignedZero :
    (floatExp 0x32FFFFFF#32).toNat ≤ 101 ∧ (floatExp 0x80000001#32).toNat ≤ 101 := by decide

theorem witness_ReduceRoundsSubnormals :
    (102 ≤ (floatExp 0x33000000#32).toNat ∧ (floatExp 0x33000000#32).toNat ≤ 112) ∧
    (102 ≤ (floatExp 0x387FE000#32).toNat ∧ (floatExp 0x387FE000#32).toNat ≤ 112) := by decide

theorem witness_ReduceInfinitiesAndNans :
    (floatExp 0xFF800000#32 = 255 ∧ floatMant 0xFF800000#32 = 0) ∧
    (floatExp 0x7F802000#32 = 255 ∧ floatMant 0x7F802000#32 ≠ 0 ∧
      2 ^ 13 ≤ (floatMant 0x7F802000#32).toNat) ∧
    (floatExp 0x7F801FFF#32 = 255 ∧ floatMant 0x7F801FFF#32 ≠ 0 ∧
      (floatMant 0x7F801FFF#32).toNat < 2 ^ 13) := by decide

/-- The second clause's two cases meet at 0x477FEFFF and 0x477FF000 (95 section 2.3). -/
theorem witness_ReduceRoundsNormals :
    0x7FF000 < 2 ^ 23 ∧
    (113 ≤ (floatExp 0x38800000#32).toNat ∧ (floatExp 0x7F7FFFFF#32).toNat ≤ 254) ∧
    ((floatExp 0x477FEFFF#32).toNat - 112) * 2 ^ 10 + nearestEven
      ((floatMant 0x477FEFFF#32).toNat / 2 ^ 13) ((floatMant 0x477FEFFF#32).toNat % 2 ^ 13) 0x1000 <
        31 * 2 ^ 10 ∧
    31 * 2 ^ 10 ≤ ((floatExp 0x477FF000#32).toNat - 112) * 2 ^ 10 + nearestEven
      ((floatMant 0x477FF000#32).toNat / 2 ^ 13) ((floatMant 0x477FF000#32).toNat % 2 ^ 13) 0x1000 := by
  decide

theorem witness_FastPathDispatch :
    (0x80000000#32).toNat % 2 ^ 31 = 0 ∧
    (113 ≤ (floatExp 0x38800000#32).toNat ∧ (floatExp 0x46FFFFFF#32).toNat ≤ 141) ∧
    ((0x387FF000#32).toNat % 2 ^ 31 ≠ 0 ∧ (floatExp 0x387FF000#32).toNat < 113) ∧
    ((0x47000000#32).toNat % 2 ^ 31 ≠ 0 ∧ 141 < (floatExp 0x47000000#32).toNat) := by decide

/-- The number of the float 1 + 2^-11, the tie of 95 X8, and of the halves on its two sides. -/
theorem tie_values :
    finite32 0x3F801000#32 = 2049 / 2048 ∧ finite16 0x3C00#16 = 1 ∧
      finite16 0x3C01#16 = 1025 / 1024 := by
  have e1 : (floatExp 0x3F801000#32).toNat = 127 := by decide
  have n1 : floatExp 0x3F801000#32 ≠ 0 := by decide
  have m1 : (floatMant 0x3F801000#32).toNat = 4096 := by decide
  have s1 : (floatSign 0x3F801000#32).toNat = 0 := by decide
  have e2 : (halfExp 0x3C00#16).toNat = 15 := by decide
  have n2 : halfExp 0x3C00#16 ≠ 0 := by decide
  have m2 : (halfMant 0x3C00#16).toNat = 0 := by decide
  have s2 : (halfSign 0x3C00#16).toNat = 0 := by decide
  have e3 : (halfExp 0x3C01#16).toNat = 15 := by decide
  have n3 : halfExp 0x3C01#16 ≠ 0 := by decide
  have m3 : (halfMant 0x3C01#16).toNat = 1 := by decide
  have s3 : (halfSign 0x3C01#16).toNat = 0 := by decide
  refine ⟨?_, ?_, ?_⟩
  · simp only [finite32, n1, if_false, signFactor, s1, e1, m1]; norm_num
  · simp only [finite16, n2, if_false, signFactor, s2, e2, m2]; norm_num
  · simp only [finite16, n3, if_false, signFactor, s3, e3, m3]; norm_num

/-- The number of 65520.0, the tie of 95 X3. -/
theorem overflow_tie_value : finite32 0x477FF000#32 = 65520 := by
  have e1 : (floatExp 0x477FF000#32).toNat = 142 := by decide
  have n1 : floatExp 0x477FF000#32 ≠ 0 := by decide
  have m1 : (floatMant 0x477FF000#32).toNat = 8384512 := by decide
  have s1 : (floatSign 0x477FF000#32).toNat = 0 := by decide
  simp only [finite32, n1, if_false, signFactor, s1, e1, m1]; norm_num

theorem witness_ReduceRoundsToNearestEven :
    (floatClass 0x7F800000#32 ≠ .nan ∧ floatClass 0x7F800000#32 = .infinity) ∧
    (floatClass 0x477FF000#32 ≠ .nan ∧ floatClass 0x477FF000#32 ≠ .infinity ∧
      65520 ≤ |finite32 0x477FF000#32|) ∧
    (floatClass 0x3F801000#32 ≠ .nan ∧ floatClass 0x3F801000#32 ≠ .infinity ∧
      |finite32 0x3F801000#32| < 65520 ∧ FiniteHalf 0x3C01#16 ∧
      finite16 0x3C01#16 ≠ finite16 (reduceDirect 0x3F801000#32) ∧
      |finite16 (reduceDirect 0x3F801000#32) - finite32 0x3F801000#32| =
        |finite16 0x3C01#16 - finite32 0x3F801000#32|) := by
  obtain ⟨hx, h0, h1⟩ := tie_values
  have hr : reduceDirect 0x3F801000#32 = 0x3C00#16 := by decide
  refine ⟨⟨by decide, by decide⟩, ⟨by decide, by decide, ?_⟩, by decide, by decide, ?_,
    show halfExp 0x3C01#16 ≠ 31 by decide, ?_, ?_⟩
  · rw [overflow_tie_value]; norm_num
  · rw [hx]; norm_num [abs_lt]
  · rw [hr, h0, h1]; norm_num
  · rw [hr, hx, h0, h1]; norm_num [abs_div]

theorem witness_OverflowThreshold :
    (0x477FEFFF#32).toNat ≤ 0x477FEFFF ∧
    (0x477FF000 ≤ (0x477FF000#32).toNat ∧ (0x7F7FFFFF#32).toNat < 0x7F800000) ∧
    (143 ≤ (floatExp 0x47800000#32).toNat ∧ (floatExp 0xFF7FFFFF#32).toNat ≤ 254) ∧
    (0x7FFFFFFF#32).toNat < 2 ^ 31 := by decide

theorem witness_UnderflowThreshold :
    (0x33000000#32).toNat < 2 ^ 31 ∧ (0x33000000#32).toNat < 0x33000001 ∧
    (floatExp 0xB2FFFFFF#32).toNat ≤ 101 := by decide

theorem witness_InternalSumsDoNotWrap :
    (0x7FFFFF < 2 ^ 23 ∧ 14 ≤ (14 : Nat) ∧ (24 : Nat) ≤ 24) ∧
    elut 113#9 ≠ 0#16 ∧ elut 397#9 ≠ 0#16 ∧ (floatExp 0x7F7FFFFF#32).toNat ≤ 254 := by decide

theorem witness_NanInNanOut :
    floatClass 0x7F800001#32 = .nan ∧ floatClass 0x7F800000#32 ≠ .nan ∧
    halfClass 0x7C01#16 = .nan := by decide

/-- The ranges of R151 at their ends. -/
theorem witness_DispatchTableListing :
    (112#9).toNat ≤ 112 ∧ (113 ≤ (113#9).toNat ∧ (141#9).toNat ≤ 141) ∧
    (142 ≤ (142#9).toNat ∧ (368#9).toNat ≤ 368) ∧
    (369 ≤ (369#9).toNat ∧ (397#9).toNat ≤ 397) ∧ 398 ≤ (398#9).toNat := by decide

/-- The ranges of R153 at their ends. -/
theorem witness_ExpansionTableListing :
    (0x0400 ≤ (0x0400#16).toNat ∧ (0x7BFF#16).toNat ≤ 0x7BFF) ∧
    (0x7C01 ≤ (0x7C01#16).toNat ∧ (0x7FFF#16).toNat ≤ 0x7FFF) ∧
    (0x8001 ≤ (0x8001#16).toNat ∧ (0xFBFF#16).toNat ≤ 0xFBFF) ∧
    0xFC01 ≤ (0xFC01#16).toNat ∧
    (1 ≤ (0x0001#16).toNat ∧ (0x0001#16).toNat ≤ 0x03FF ∧ 2 ^ 0 ≤ (0x0001#16).toNat ∧
      (0x0001#16).toNat < 2 ^ (0 + 1)) ∧
    ((0x03FF#16).toNat ≤ 0x03FF ∧ 2 ^ 9 ≤ (0x03FF#16).toNat ∧
      (0x03FF#16).toNat < 2 ^ (9 + 1)) := by decide

theorem witness_AssignedRequestsAnswerLegally :
    Ready (block 2 []) ∧ (0x7FFFFFFFF#36).getLsbD 35 = false := ⟨⟨rfl, rfl⟩, by decide⟩

/-- The reserved codes at both ends; the third clause, both cases. -/
theorem witness_ReservedRequestsAnswerIllegal :
    (0x8#4).getLsbD 3 = true ∧ (0xF#4).getLsbD 3 = true ∧
    (∃ t, step (block 1 [sampleReserved]) = .next t ∧ accepts sampleReserved ∧
      sampleReserved.op.getLsbD 3 = true) ∧
    (∃ t, step (block 1 []) = .next t) :=
  ⟨by decide, by decide, ⟨_, rfl, ⟨rfl, rfl⟩, rfl⟩, ⟨_, rfl⟩⟩

theorem witness_EveryStepKeepsTheBlockInvariant :
    (block 2 [sampleReserved]).Inv ∧ ∃ t, step (block 2 [sampleReserved]) = .next t := by
  refine ⟨⟨rfl, ?_, fun _ => by decide⟩, ⟨_, rfl⟩⟩
  intro st h
  have h2 : some (⟨false, 0, false⟩ : Stage) = some st := h
  cases h2
  rfl

theorem witness_NoStepReconfiguresTheBlock :
    ∃ t, step (block 1 [sampleRequest, resetPorts]) = .next t := ⟨_, rfl⟩

theorem witness_StepRunsTheDecodedRequest :
    (block 1 [sampleRequest]).inputs = sampleRequest :: [] ∧ accepts sampleRequest :=
  ⟨rfl, rfl, rfl⟩

theorem witness_UnreadInputsHaveNoEffect :
    ((⟨true, true, 0x4#4, 7#32⟩ : InPorts).rst = resetPorts.rst ∧ resetPorts.rst = true) ∧
    ((⟨false, false, 0x4#4, 7#32⟩ : InPorts).rst = idlePorts.rst ∧
      (⟨false, false, 0x4#4, 7#32⟩ : InPorts).valid = false ∧ idlePorts.valid = false) := by decide

theorem witness_IdleEdgesOnlyAdvanceThePipeline :
    (Ready (block 2 []) ∧ (block 2 []).inputs = []) ∧
    (Ready (block 0 [idlePorts]) ∧ (block 0 [idlePorts]).inputs = idlePorts :: [] ∧
      idlePorts.rst = false ∧ idlePorts.valid = false) :=
  ⟨⟨⟨rfl, rfl⟩, rfl⟩, ⟨rfl, rfl⟩, rfl, rfl, rfl⟩

/-- 95 P4, `L = 2`, the state at edge 2: a response is in `stage[1]`. -/
theorem witness_ResetEdgeClearsAndDiscards :
    let s : State := ⟨⟨2, .rom⟩, true, [⟨true, 0x3F800000#32, false⟩, ⟨false, 0, false⟩],
      ⟨false, 0, false⟩, [resetPorts, idlePorts], 0, []⟩
    s.inputs = resetPorts :: [idlePorts] ∧ resetPorts.rst = true ∧
      noRequest [idlePorts] = true := ⟨rfl, rfl, by decide⟩

theorem witness_HoldingResetChangesNothing :
    (block 2 [resetPorts, resetPorts, sampleRequest]).inputs =
      [resetPorts, resetPorts] ++ [sampleRequest] ∧
    [resetPorts, resetPorts] ≠ [] ∧ (∀ p ∈ [resetPorts, resetPorts], p.rst = true) ∧
    accepts sampleRequest :=
  ⟨rfl, by decide, by decide, rfl, rfl⟩

theorem witness_FirstResetAfterPowerUpClears : resetPorts.rst = true := rfl

theorem witness_BeforeTheFirstResetEverythingIsADraw :
    (powerUp ⟨2, .computed⟩ [sampleRequest]).wasReset = false ∧
    (∀ p rest, (powerUp ⟨2, .computed⟩ [sampleRequest]).inputs = p :: rest → p.rst = false) :=
  ⟨rfl, fun p rest h => by cases h; rfl⟩

theorem witness_ZeroLatencyIsCombinational :
    (block 0 [sampleRequest]).wasReset = true ∧
    (block 0 [sampleRequest]).params.latency = 0 ∧
    (block 0 [sampleRequest]).inputs = sampleRequest :: [] ∧
    (outAfter (block 0 [sampleRequest])).map (·.valid) = some true := by decide

/-- 95 section 2.7, `L = 3`: accepted at edge 0, no reset at edges 1 and 2: the response is presented in
cycle 2; the last clause: with a reset at edge 1 the other side of the equivalence holds. -/
theorem witness_ResponsesComeAfterTheLatency :
    Ready (block 3 [sampleRequest, idlePorts]) ∧
    0 < (block 3 [sampleRequest, idlePorts]).params.latency ∧
    (∃ p, (block 3 [sampleRequest, idlePorts]).inputs[0]? = some p ∧ accepts p) ∧
    (∀ q ∈ [idlePorts], q.rst = false) ∧
    ((observe (0 + 3) (block 3 [sampleRequest, idlePorts]))[0 + 3 - 1]?).map (·.valid) = some true ∧
    Ready (block 3 [sampleRequest, resetPorts]) ∧ resetPorts.rst = true ∧
    (∃ t, step (block 3 [sampleRequest, idlePorts]) = .next t) ∧
    (∀ p rest, (block 3 [sampleRequest, idlePorts]).inputs = p :: rest → p.rst = false) :=
  ⟨⟨rfl, rfl⟩, by decide, ⟨_, rfl, rfl, rfl⟩, by decide, by decide, ⟨rfl, rfl⟩, rfl, ⟨_, rfl⟩,
    fun p rest h => by cases h; rfl⟩

theorem drained_block (latency : Nat) (inputs : List InPorts) : (block latency inputs).Drained := by
  intro st h
  rw [List.eq_of_mem_replicate h]

theorem witness_EveryRequestIsAnsweredOnceInOrder :
    Ready (block 2 [sampleRequest, sampleReserved]) ∧
    (block 2 [sampleRequest, sampleReserved]).Drained ∧
    noReset (block 2 [sampleRequest, sampleReserved]).inputs = true ∧
    (block 2 [sampleRequest, sampleReserved]).inputs.length + 2 ≤ 4 :=
  ⟨⟨rfl, rfl⟩, drained_block _ _, by decide, by decide⟩

theorem witness_ResponsesDependOnRequestsAlone :
    Ready (block 0 [sampleRequest]) ∧ Ready (block 3 [sampleRequest]) ∧
    (block 0 [sampleRequest]).Drained ∧ (block 3 [sampleRequest]).Drained ∧
    (block 0 [sampleRequest]).inputs = (block 3 [sampleRequest]).inputs ∧
    noReset (block 0 [sampleRequest]).inputs = true ∧
    (∀ p ∈ [sampleRequest], p.op.getLsbD 3 = false) :=
  ⟨⟨rfl, rfl⟩, ⟨rfl, rfl⟩, drained_block _ _, drained_block _ _, rfl, by decide, by decide⟩

theorem witness_RunEndsWithTheLastResponse :
    (Ready (block 2 [idlePorts, sampleRequest]) ∧
      (block 2 [idlePorts, sampleRequest]).inputs = [idlePorts] ++ [sampleRequest] ∧
      noReset (block 2 [idlePorts, sampleRequest]).inputs = true ∧ accepts sampleRequest ∧
      (block 2 [idlePorts, sampleRequest]).runEnded = false) ∧
    (Ready (block 2 []) ∧ (block 2 []).runEnded = true) :=
  ⟨⟨⟨rfl, rfl⟩, rfl, by decide, ⟨rfl, rfl⟩, by decide⟩, ⟨rfl, rfl⟩, by decide⟩

end Sys2Proof.Tests
end

/-! The two paths from float to half agree (42_float_to_half.md R136). -/

namespace Sys2Proof.Machine

theorem signInPlace_toNat (s : BitVec 1) : (signInPlace s).toNat = s.toNat * 2 ^ 15 := by
  have := s.isLt
  simp only [signInPlace, BitVec.toNat_shiftLeft, BitVec.toNat_setWidth, Nat.shiftLeft_eq]
  omega

/-- A sign above a 15-bit magnitude. -/
theorem signInPlace_or_toNat (s : BitVec 1) {n : Nat} (hn : n < 2 ^ 15) :
    (signInPlace s ||| BitVec.ofNat 16 n).toNat = s.toNat * 2 ^ 15 + n := by
  rw [BitVec.toNat_or, signInPlace_toNat, BitVec.toNat_ofNat, Nat.mod_eq_of_lt (by omega),
    Nat.mul_comm, Nat.two_pow_add_eq_or_of_lt hn]

theorem roundSum_lt {M : Nat} (hM : M < 2 ^ 23) : roundSum M < 2 ^ 23 + 2 ^ 12 := by
  have : (M >>> 13) &&& 1 ≤ 1 := Nat.and_le_right
  simp only [roundSum]
  omega

/-- The carry test of 42 R126: bit 23 of a sum below `2^24`. -/
theorem carry_iff {r : Nat} (hr : r < 2 ^ 24) : r &&& 0x800000 ≠ 0 ↔ 2 ^ 23 ≤ r := by
  have hbit : r.testBit 23 = decide (2 ^ 23 ≤ r) := by
    rw [Nat.testBit_eq_decide_div_mod_eq, decide_eq_decide]
    omega
  rw [show 0x800000 = 2 ^ 23 from rfl, Nat.and_two_pow, hbit]
  simp

/-- A finite result of the direct path (42 R127): sign, exponent and rounded mantissa in place. -/
theorem packOrOverflow_toNat (s : BitVec 1) {k r : Nat} (hk : k ≤ 30) (hr : r < 2 ^ 23) :
    (packOrOverflow (signInPlace s) k r).toNat = s.toNat * 2 ^ 15 + (k * 2 ^ 10 + r / 2 ^ 13) := by
  have hm : r / 2 ^ 13 < 2 ^ 10 := by omega
  rw [packOrOverflow, if_neg (by omega), Int.toNat_natCast, Nat.shiftRight_eq_div_pow,
    ← Nat.shiftLeft_add_eq_or_of_lt hm, Nat.shiftLeft_eq, signInPlace_or_toNat _ (by omega)]

/-- The direct path where no carry takes the exponent past 30: exponent and rounded mantissa are one
number, whether the rounding carries or not (42 R125 to R127). -/
theorem reduceDirect_toNat_of_dispatched {A : Word} (h1 : 113 ≤ (floatExp A).toNat)
    (h2 : (floatExp A).toNat ≤ 141) :
    (reduceDirect A).toNat = (floatSign A).toNat * 2 ^ 15 +
      (((floatExp A).toNat - 112) * 2 ^ 10 + roundSum (floatMant A).toNat / 2 ^ 13) := by
  have hr := roundSum_lt (floatMant A).isLt
  have hexp : reduceExp A = (((floatExp A).toNat - 112 : Nat) : Int) := by
    simp only [reduceExp]
    omega
  have hcarry := carry_iff (r := roundSum (floatMant A).toNat) (by omega)
  simp only [reduceDirect, reduceSign, hexp]
  rw [if_neg (by omega), if_neg (by omega)]
  split
  case isTrue hset =>
    have hle := hcarry.mp hset
    rw [← Nat.cast_succ, packOrOverflow_toNat _ (by omega) (by omega)]
    omega
  case isFalse hclear =>
    have hnot := mt hcarry.mpr hclear
    exact packOrOverflow_toNat _ (by omega) (by omega)

/-- A non-zero entry of ELUT is a sign and a half exponent (43 R150). -/
theorem elut_toNat_of_ne_zero {i : BitVec 9} (h : elut i ≠ 0) :
    113 ≤ (i.extractLsb' 0 8).toNat ∧ (i.extractLsb' 0 8).toNat ≤ 141 ∧
      (elut i).toNat = (i.extractLsb' 8 1).toNat * 2 ^ 15 +
        ((i.extractLsb' 0 8).toNat - 112) * 2 ^ 10 := by
  simp only [elut, elutUpTo] at h ⊢
  split at h
  case isTrue hrange =>
    have hshift : ((((i.extractLsb' 0 8).toNat : Int) - 112).toNat) <<< 10 =
        ((i.extractLsb' 0 8).toNat - 112) * 2 ^ 10 := by
      rw [Nat.shiftLeft_eq]
      omega
    refine ⟨by omega, by omega, ?_⟩
    rw [if_pos hrange, hshift, signInPlace_or_toNat _ (by omega)]
  case isFalse => exact absurd rfl h

/-- The index of the dispatch is the sign above the exponent (42 R130). -/
theorem dispatchIndex_exp (A : Word) : (A.extractLsb' 23 9).extractLsb' 0 8 = floatExp A := by
  apply BitVec.eq_of_toNat_eq
  simp only [floatExp, BitVec.extractLsb'_toNat, Nat.shiftRight_eq_div_pow]
  omega

theorem dispatchIndex_sign (A : Word) : (A.extractLsb' 23 9).extractLsb' 8 1 = floatSign A := by
  apply BitVec.eq_of_toNat_eq
  simp only [floatSign, BitVec.extractLsb'_toNat, Nat.shiftRight_eq_div_pow]
  omega

/-- The direct path on a zero gives its sign (42 R121), which is the high half of the word (R129). -/
theorem reduceDirect_zero {A : Word} (h : A.extractLsb' 0 31 = 0) :
    reduceDirect A = A.extractLsb' 16 16 := by
  have hlow : A.toNat % 2 ^ 31 = 0 := by
    simpa [BitVec.extractLsb'_toNat] using congrArg BitVec.toNat h
  have hE : floatExp A = 0#8 := by
    apply BitVec.eq_of_toNat_eq
    simp only [floatExp, BitVec.extractLsb'_toNat, Nat.shiftRight_eq_div_pow, BitVec.toNat_ofNat]
    omega
  have hexp : reduceExp A = -112 := by simp [reduceExp, hE]
  simp only [reduceDirect, hexp]
  rw [if_pos (by omega), if_pos (by omega)]
  apply BitVec.eq_of_toNat_eq
  simp only [reduceSign, signInPlace_toNat, floatSign, BitVec.extractLsb'_toNat,
    Nat.shiftRight_eq_div_pow]
  have := A.isLt
  omega

/-- 42 R136: the fast path and the direct path agree on every operand. -/
theorem reduceFast_eq_reduceDirect (A : Word) : reduceFast A = reduceDirect A := by
  simp only [reduceFast, reduceByTable]
  split
  case isTrue hzero => exact (reduceDirect_zero hzero).symm
  case isFalse =>
    split
    case isTrue hentry =>
      obtain ⟨hlow, hhigh, hvalue⟩ := elut_toNat_of_ne_zero hentry
      rw [dispatchIndex_exp] at hlow hhigh hvalue
      rw [dispatchIndex_sign] at hvalue
      have hr := roundSum_lt (floatMant A).isLt
      have hs := (floatSign A).isLt
      apply BitVec.eq_of_toNat_eq
      rw [reduceDirect_toNat_of_dispatched hlow hhigh, BitVec.toNat_ofNat, hvalue,
        Nat.shiftRight_eq_div_pow]
      omega
    case isFalse => rfl

theorem yH2fLut_eq_yH2f (impl : TableImpl) (a : Word) : yH2fLut impl a = yH2f a := by
  cases impl <;> rfl

theorem yF2hFast_eq_yF2h (impl : TableImpl) (a : Word) : yF2hFast impl a = yF2h a := by
  cases impl with
  | rom => rw [yF2hFast, reduceFast_eq_reduceDirect, yF2h]
  | computed => rfl

/-- An op code with `op[3] = 0` is assigned: its outcome is a value (30 R65, 60 R170). -/
theorem opLayer_value_of_assigned {op : OpCode} (a : Word) (h : op.getLsbD 3 = false) :
    ∃ y, opLayer op a = .value y := by
  have hlt : ∀ op : OpCode, op.getLsbD 3 = false → op.toNat < 8 := by decide
  have hop := hlt op h
  simp only [opLayer, decodeOp]
  interval_cases op.toNat <;> exact ⟨_, rfl⟩

end Sys2Proof.Machine

/-! What an edge does, reset or not: the one case split of a step that the statements about edges and
runs go through (70_reset_and_hazards.md R191, R194). -/

namespace Sys2Proof.Machine

/-- The response a stage holds, if it holds one; the `Y` of an illegal one is a draw (60 R171). -/
def Stage.response (st : Stage) : Option Response :=
  if st.v then some ⟨if st.ill then none else some st.y, some st.ill⟩ else none

/-- The response of an outcome (00 R10, 60 R170, R171). -/
def OpResult.answer : OpResult → Response
  | .value y => ⟨some y, some false⟩
  | .illegalOp => ⟨none, some true⟩

/-- The response to what one edge presents, if it accepts a request (70 R193). -/
def InPorts.answer (p : InPorts) : Option Response := p.outcome.map OpResult.answer

@[simp] theorem response_emptyStage (n : Nat) : (emptyStage n).response = none := rfl
@[simp] theorem response_responseStage (y : Word) :
    (responseStage y).response = some (OpResult.value y).answer := rfl
@[simp] theorem response_illegalStage (n : Nat) :
    (illegalStage n).response = some OpResult.illegalOp.answer := rfl

/-- Once reset, the host reads the response of the stage that drives the outputs (10 R29, 70 R197). -/
theorem response_of_driven {s : State} {st : Stage} (hr : s.wasReset = true)
    (hout : s.out = st.drive) : s.response = st.response := by
  simp [State.response, Stage.response, hr, hout]

theorem answer_of_idle {p : InPorts} (h : p.rst = false) (hv : p.valid = false) :
    p.answer = none := by
  simp [InPorts.answer, InPorts.outcome, h, hv]

theorem answer_of_request {p : InPorts} (h : p.rst = false) (hv : p.valid = true) :
    p.answer = some (opLayer p.op p.a).answer := by
  simp [InPorts.answer, InPorts.outcome, h, hv]

theorem decode_request (op : OpCode) (a : Word) : decode (request op a) = decodeOp op a := by
  rw [decode, request_op, request_operand]

/-- `t` is `s` after an edge without reset at which `e` enters the pipeline (70 R194), whatever becomes
of the host's stream; of the model's own fields, draws only grow, and the fault record grows by exactly
the illegal responses. -/
structure Shifts (s t : State) (e : Stage) : Prop where
  stages : t.stages = (s.shiftIn e).stages
  out : t.out = (s.shiftIn e).out
  wasReset : t.wasReset = s.wasReset
  params : t.params = s.params
  draws : (s.shiftIn e).draws ≤ t.draws
  faults : t.faults = if e.v && e.ill then .illegalOp :: s.faults else s.faults

theorem shifts_respond (s : State) (y : Word) : Shifts s (s.respond y) (responseStage y) := by
  constructor <;> simp

theorem shifts_raiseIllegalOp (s : State) :
    Shifts s s.raiseIllegalOp (illegalStage s.draws) := by
  constructor <;> simp

theorem shifts_idleEdge (s : State) : Shifts s s.idleEdge (emptyStage s.draws) := by
  constructor <;> simp

theorem shiftIn_with_inputs (s : State) (inputs : List InPorts) (e : Stage) :
    State.shiftIn { s with inputs := inputs } e = { s.shiftIn e with inputs := inputs } := by
  cases h : s.wasReset with
  | false => simp only [shiftIn_of_not_reset, h, State.unknownEdge]
  | true => simp only [shiftIn_of_reset, h]

theorem shifts_of_with_inputs {s t : State} {inputs : List InPorts} {e : Stage}
    (h : Shifts { s with inputs := inputs } t e) : Shifts s t e := by
  obtain ⟨hstages, hout, hreset, hparams, hdraws, hfaults⟩ := h
  rw [shiftIn_with_inputs] at hstages hout hdraws
  exact ⟨hstages, hout, hreset, hparams, hdraws, hfaults⟩

/-- The edge that accepts a request: the response of the request's outcome enters, whichever way the
build has the tables. -/
theorem exec_shifts (i : Instr) (s : State) :
    ∃ t e, exec i s = .next t ∧ Shifts s t e ∧ t.inputs = s.inputs ∧
      e.response = some (outcomeOf i).answer := by
  have hvalue (y : Word) (he : exec i s = .next (s.respond y)) (ho : outcomeOf i = .value y) :
      ∃ t e, exec i s = .next t ∧ Shifts s t e ∧ t.inputs = s.inputs ∧
        e.response = some (outcomeOf i).answer :=
    ⟨_, _, he, shifts_respond s y, respond_inputs s y, by rw [ho, response_responseStage]⟩
  cases i with
  | reserved op a => exact ⟨_, _, rfl, shifts_raiseIllegalOp s, raiseIllegalOp_inputs s, rfl⟩
  | h2fLut a => exact hvalue _ rfl (by simp only [outcomeOf, yH2fLut_eq_yH2f])
  | f2hFast a => exact hvalue _ rfl (by simp only [outcomeOf, yF2hFast_eq_yF2h])
  | _ => exact hvalue _ rfl rfl

@[simp] theorem sample_snd (s : State) : s.sample.2 = { s with inputs := s.inputs.tail } := by
  cases h : s.inputs with
  | nil => rw [sample_nil h, List.tail_nil, ← h]
  | cons p rest => rw [sample_cons h, List.tail_cons]

/-- What each edge does to the block (70 R191, R193, R194). -/
def Edge.run (s : State) : Edge → Host.Outcome State Fault Refusal
  | .reset => .next s.resetEdge
  | .idle => .next s.idleEdge
  | .request i => exec i s

theorem step_eq_run (s : State) :
    step s = s.sample.1.edge.run { s with inputs := s.inputs.tail } := by
  rw [← sample_snd]
  rfl

/-- The response to what the next edge presents; a stream with nothing left presents nothing (log 1). -/
def State.nextAnswer (s : State) : Option Response := s.inputs.head?.bind InPorts.answer

theorem sample_answer (s : State) : s.sample.1.answer = s.nextAnswer := by
  cases h : s.inputs with
  | nil => simp [sample_nil h, State.nextAnswer, h, InPorts.answer, InPorts.outcome, idlePorts]
  | cons p rest => simp [sample_cons h, State.nextAnswer, h]

theorem sample_rst_iff (s : State) :
    s.sample.1.rst = true ↔ ∃ p rest, s.inputs = p :: rest ∧ p.rst = true := by
  cases h : s.inputs with
  | nil => simp [sample_nil h, idlePorts]
  | cons p rest => simp [sample_cons h]

theorem sample_rst_eq_false {s : State} (h : ∀ p rest, s.inputs = p :: rest → p.rst = false) :
    s.sample.1.rst = false := by
  cases hin : s.inputs with
  | nil => rw [sample_nil hin, idlePorts]
  | cons p rest => rw [sample_cons hin, h p rest hin]

/-- A reset edge (70 R191). -/
theorem step_reset {s : State} (h : s.sample.1.rst = true) :
    step s = .next (State.resetEdge { s with inputs := s.inputs.tail }) := by
  rw [step_eq_run, InPorts.edge, if_pos h, Edge.run]

/-- An edge without reset shifts the pipeline, and the answer to what it presents enters. -/
theorem step_shifts {s : State} (h : s.sample.1.rst = false) :
    ∃ t e, step s = .next t ∧ Shifts s t e ∧ t.inputs = s.inputs.tail ∧
      e.response = s.nextAnswer := by
  rw [step_eq_run, ← sample_answer]
  rcases edge_cases s.sample.1 with ⟨hr, -⟩ | ⟨-, hv, he⟩ | ⟨-, hv, he⟩
  · simp [hr] at h
  · rw [he, Edge.run, answer_of_request h hv, opLayer, ← decode_request]
    obtain ⟨t, e, hexec, hshift, hrest⟩ := exec_shifts _ { s with inputs := s.inputs.tail }
    exact ⟨t, e, hexec, shifts_of_with_inputs hshift, hrest⟩
  · rw [he, Edge.run, answer_of_idle h hv]
    exact ⟨_, _, rfl, shifts_of_with_inputs (shifts_idleEdge _), idleEdge_inputs _,
      response_emptyStage _⟩

/-- Everything one step can do, with its edge: a reset edge clears, every other one shifts. -/
theorem step_reset_or_shifts {s t : State} (h : step s = .next t) :
    (s.sample.1.rst = true ∧ t = State.resetEdge { s with inputs := s.inputs.tail }) ∨
    (s.sample.1.rst = false ∧ t.inputs = s.inputs.tail ∧ ∃ e, Shifts s t e) := by
  cases hr : s.sample.1.rst with
  | true =>
    rw [step_reset hr] at h
    exact .inl ⟨rfl, (Host.Outcome.next.inj h).symm⟩
  | false =>
    obtain ⟨u, e, hu, hshift, hin, -⟩ := step_shifts hr
    obtain rfl := Host.Outcome.next.inj (hu.symm.trans h)
    exact .inr ⟨rfl, hin, e, hshift⟩

end Sys2Proof.Machine

/-! The invariant of the block (10_state.md R29, 60_exceptions.md R171), the state a reset edge leaves
(10 R32), and the state before the first one (R33). -/

namespace Sys2Proof.Machine

open Sys2Proof.Claims

theorem cleared_resetEdge (s : State) : Cleared s.resetEdge :=
  ⟨by simp, fun _ h => emptyStages_invalid h, resetEdge_out_valid s⟩

/-- A reset edge reaches the invariant from every state: nothing is in flight. -/
theorem inv_resetEdge (s : State) : s.resetEdge.Inv where
  depth := by simp
  driven _ h := outputsOf_eq_last _ h
  recorded _ := by
    have hnone : s.resetEdge.illegalInFlight = 0 := by
      rw [State.illegalInFlight, List.countP_eq_zero]
      intro st hst
      simp [emptyStages_invalid hst]
    omega

theorem cleared_reset : Cleared State.reset :=
  resetEdge_reference true [] ⟨false, 0, false⟩ ▸ cleared_resetEdge _

theorem inv_reset : State.reset.Inv :=
  resetEdge_reference true [] ⟨false, 0, false⟩ ▸ inv_resetEdge _

/-- At most the entering stage adds an illegal response to those in flight. -/
theorem illegalInFlight_of_shifts {s t : State} {e : Stage} (hr : s.wasReset = true)
    (h : Shifts s t e) :
    t.illegalInFlight ≤ s.illegalInFlight + if e.v && e.ill then 1 else 0 := by
  rw [State.illegalInFlight, h.stages, shiftIn_stages s e hr]
  calc _ ≤ (e :: s.stages).countP fun st => st.v && st.ill :=
        (List.take_sublist _ _).countP_le
    _ = _ := List.countP_cons

/-- An edge without reset keeps the invariant: an illegal response enters with its fault. -/
theorem inv_of_shifts {s t : State} {e : Stage} (h : Shifts s t e) (hi : s.Inv) : t.Inv where
  depth := by rw [h.stages, h.params, shiftIn_depth e hi.depth]
  driven last hlast := by
    rw [h.stages] at hlast
    rw [h.out, shiftIn_driven s e hlast]
  recorded hr := by
    rw [h.wasReset] at hr
    have hflight := illegalInFlight_of_shifts hr h
    have hrecord := hi.recorded hr
    rw [h.faults, apply_ite List.length, List.length_cons]
    split_ifs at hflight ⊢ <;> omega

/-- The unknown block's outputs are one of its draws, whatever the latency. -/
theorem outputsOf_unknownStages (n k : Nat) :
    ∃ m, n ≤ m ∧ m < n + max k 1 ∧
      outputsOf (unknownStages n k) (unknownStage n) = (unknownStage m).drive := by
  cases h : (unknownStages n k).getLast? with
  | none =>
    rw [List.getLast?_eq_none_iff] at h
    exact ⟨n, le_refl n, by omega, by rw [h, outputsOf_nil]⟩
  | some last =>
    obtain ⟨m, hlow, hhigh, rfl⟩ := unknownStages_mem (List.mem_of_getLast? h)
    exact ⟨m, hlow, by omega, outputsOf_eq_last _ h⟩

/-- A block not yet reset whose pipeline and outputs are draws taken from number `first` on. -/
theorem unknown_of_draws {params : Params} {first : Nat} {t : State} (hr : t.wasReset = false)
    (hparams : t.params = params) (hstages : t.stages = unknownStages first params.latency)
    (hout : t.out = outputsOf (unknownStages first params.latency) (unknownStage first))
    (hdraws : first + max params.latency 1 ≤ t.draws) : Unknown params first t where
  wasReset := hr
  depth := by rw [hstages, unknownStages_length]
  stages st hst := by
    obtain ⟨m, hlow, hhigh, rfl⟩ := unknownStages_mem (hstages ▸ hst)
    exact ⟨m, hlow, by omega, rfl⟩
  outputs := by
    obtain ⟨m, hlow, hhigh, hm⟩ := outputsOf_unknownStages first params.latency
    exact ⟨m, hlow, by omega, hout.trans hm⟩
  driven st hst := by rw [hout, outputsOf_eq_last _ (hstages ▸ hst), Stage.drive]
  response := by rw [State.response, hr]; rfl
  params := hparams

theorem unknown_powerUp (params : Params) (inputs : List InPorts) :
    Unknown params 0 (powerUp params inputs) :=
  unknown_of_draws rfl rfl rfl rfl (Nat.zero_add _).le

/-- Before the first reset edge whatever enters is lost: every stage and output is a draw again. -/
theorem unknown_of_shifts {s t : State} {e : Stage} (h : Shifts s t e) (hr : s.wasReset = false) :
    Unknown s.params s.draws t := by
  have hshift := shiftIn_of_not_reset s e hr
  apply unknown_of_draws (h.wasReset.trans hr) h.params
  · rw [h.stages, hshift, unknownEdge_stages]
  · rw [h.out, hshift, unknownEdge_out]
  · simpa [hshift] using h.draws

end Sys2Proof.Machine

/-! A run without reset (70_reset_and_hazards.md R194, R196): what the cycles present is what waits in
the pipeline, then the answers to the host's stream. -/

namespace Sys2Proof.Machine

open Sys2Proof.Claims

/-- What waits in the pipeline behind the outputs, the next to be presented first. -/
def State.waiting (s : State) : List (Option Response) :=
  (s.stages.dropLast.map Stage.response).reverse

theorem ready_of_shifts {s t : State} {e : Stage} (hs : Ready s) (h : Shifts s t e) : Ready t :=
  ⟨h.wasReset.trans hs.1, by rw [h.stages, h.params, shiftIn_depth e hs.2]⟩

/-- The pipeline with what enters is the new pipeline and the stage that drives the outputs, which with
`LATENCY = 0` is what enters (70 R195). -/
theorem shiftIn_pipeline {s : State} (e : Stage) (hs : Ready s) :
    ∃ last, e :: s.stages.dropLast = (s.shiftIn e).stages.dropLast ++ [last] ∧
      (s.shiftIn e).out = last.drive := by
  obtain ⟨hr, hdepth⟩ := hs
  cases hlat : s.params.latency with
  | zero =>
    have hnone : s.stages = [] := List.length_eq_zero_iff.mp (hdepth.trans hlat)
    exact ⟨e, by simp [hr, hlat, hnone], by simp [hr, hlat]⟩
  | succ n =>
    have hpipe : (s.shiftIn e).stages = e :: s.stages.dropLast := by
      rw [shiftIn_stages s e hr, hlat, List.take_succ_cons, List.dropLast_eq_take, hdepth, hlat,
        Nat.add_sub_cancel]
    have hne : (s.shiftIn e).stages ≠ [] := by simp [hpipe]
    refine ⟨_, ?_, shiftIn_driven s e (List.getLast?_eq_some_getLast hne)⟩
    rw [List.dropLast_append_getLast hne, hpipe]

/-- An edge without reset presents the first of what waits and what enters, and the rest waits. -/
theorem response_cons_waiting {s t : State} {e : Stage} (hs : Ready s) (h : Shifts s t e) :
    t.response :: t.waiting = s.waiting ++ [e.response] := by
  obtain ⟨last, hpipe, hout⟩ := shiftIn_pipeline e hs
  rw [response_of_driven (h.wasReset.trans hs.1) (h.out.trans hout), State.waiting, h.stages]
  have hmap := congrArg (fun stages => (stages.map Stage.response).reverse) hpipe
  simpa [State.waiting] using hmap.symm

/-- The answers to a stream, and `n` edges of a host that idles after it (log 1). -/
def answers (inputs : List InPorts) (n : Nat) : List (Option Response) :=
  inputs.map InPorts.answer ++ List.replicate n none

/-- The answers of a stream to which enough idle edges are added begin with the next edge's. -/
theorem answers_eq_cons {s : State} {k n : Nat} (h : k + 1 ≤ n) :
    ∃ m, k ≤ m ∧ answers s.inputs n = s.nextAnswer :: answers s.inputs.tail m := by
  cases hin : s.inputs with
  | nil =>
    obtain ⟨m, rfl⟩ : ∃ m, n = m + 1 := ⟨n - 1, by omega⟩
    exact ⟨m, by omega, by simp [answers, State.nextAnswer, hin, List.replicate_succ]⟩
  | cons p rest => exact ⟨n, by omega, by simp [answers, State.nextAnswer, hin]⟩

theorem sample_rst_of_noReset {s : State} (h : noReset s.inputs = true) :
    s.sample.1.rst = false := by
  apply sample_rst_eq_false
  intro p rest hin
  simp only [noReset, hin, List.all_cons, Bool.and_eq_true, Bool.not_eq_true'] at h
  exact h.1

theorem noReset_tail {inputs : List InPorts} (h : noReset inputs = true) :
    noReset inputs.tail = true := by
  cases inputs with
  | nil => rfl
  | cons p rest =>
    simp only [noReset, List.all_cons, Bool.and_eq_true] at h
    exact h.2

/-- A run without reset presents, cycle by cycle, what waits in the pipeline and then the answers to the
stream, whatever the latency (70 R194, R195). -/
theorem presented_eq {k n : Nat} {s : State} (hn : k ≤ n) (hs : Ready s)
    (hstream : noReset s.inputs = true) :
    presented k s = (s.waiting ++ answers s.inputs n).take k := by
  induction k generalizing n s with
  | zero => simp
  | succ k ih =>
    obtain ⟨t, e, hstep, hshift, hin, hanswer⟩ := step_shifts (sample_rst_of_noReset hstream)
    obtain ⟨m, hm, hcons⟩ := answers_eq_cons (s := s) hn
    calc presented (k + 1) s
      _ = t.response :: (t.waiting ++ answers s.inputs.tail m).take k := by
        rw [presented_succ hstep, ih hm (ready_of_shifts hs hshift) (hin ▸ noReset_tail hstream), hin]
      _ = ((t.response :: t.waiting) ++ answers s.inputs.tail m).take (k + 1) := by
        rw [List.cons_append, List.take_succ_cons]
      _ = (s.waiting ++ answers s.inputs n).take (k + 1) := by
        rw [response_cons_waiting hs hshift, hanswer, hcons, List.append_assoc, List.singleton_append]

theorem waiting_length {s : State} (hs : Ready s) : s.waiting.length = s.params.latency - 1 := by
  simp [State.waiting, hs.2]

theorem waiting_of_drained {s : State} (h : s.Drained) :
    s.waiting = List.replicate s.waiting.length none := by
  rw [List.eq_replicate_iff]
  refine ⟨rfl, fun r hr => ?_⟩
  obtain ⟨st, hst, rfl⟩ := List.mem_map.mp (List.mem_reverse.mp hr)
  simp [Stage.response, h st (List.dropLast_subset _ hst)]

/-- The answers a stream gets are the responses of its outcomes. -/
theorem filterMap_answer (inputs : List InPorts) :
    inputs.filterMap InPorts.answer = (outcomes inputs).map OpResult.answer := by
  rw [outcomes, List.map_filterMap]
  rfl

/-- A run that drains the pipeline of a block with nothing in flight presents the answer to every
accepted request, in order, and nothing else (20 R47, 70 R196). -/
theorem responses_of_drained {k : Nat} {s : State} (hs : Ready s) (hd : s.Drained)
    (hstream : noReset s.inputs = true) (hk : s.inputs.length + s.params.latency ≤ k) :
    responses k s = (outcomes s.inputs).map OpResult.answer := by
  have hlen : (s.waiting ++ s.inputs.map InPorts.answer).length ≤ k := by
    rw [List.length_append, List.length_map, waiting_length hs]
    omega
  rw [responses, presented_eq le_rfl hs hstream, answers, ← List.append_assoc,
    List.take_append, List.take_of_length_le hlen, List.take_replicate, waiting_of_drained hd,
    ← filterMap_answer]
  simp [List.filterMap_append]

/-- A stream whose accepted requests are all assigned has values for outcomes (60 R170). -/
theorem outcomes_values {inputs : List InPorts}
    (h : ∀ p ∈ inputs, accepts p → p.op.getLsbD 3 = false) {r : OpResult}
    (hr : r ∈ outcomes inputs) : ∃ y, r = .value y := by
  obtain ⟨p, hp, hout⟩ := List.mem_filterMap.mp hr
  rcases edge_cases p with ⟨hrst, -⟩ | ⟨hrst, hv, -⟩ | ⟨-, hv, -⟩
  · simp [InPorts.outcome, hrst] at hout
  · obtain ⟨y, hy⟩ := opLayer_value_of_assigned p.a (h p hp ⟨hrst, hv⟩)
    exact ⟨y, by simpa [InPorts.outcome, hrst, hv, hy] using hout.symm⟩
  · simp [InPorts.outcome, hv] at hout

/-- An observation without a draw compares equal to itself (70 R200). -/
theorem sameObservation_self {rs : List Response}
    (h : ∀ r ∈ rs, ∃ y i, r = ⟨some y, some i⟩) : sameObservation rs rs = true := by
  induction rs with
  | nil => rfl
  | cons r rs ih =>
    obtain ⟨hr, hrs⟩ := List.forall_mem_cons.mp h
    obtain ⟨y, i, hr⟩ := hr
    rw [sameObservation, ih hrs, (same_iff r r).mpr ⟨y, i, hr, hr⟩, Bool.and_self]

end Sys2Proof.Machine

/-! The statements about the state (10_state.md). -/

namespace Sys2Proof.Proofs

open Sys2Proof.Machine Sys2Proof.Claims

/-- Settles O44: a reset edge reaches the invariant from anywhere, every other edge shifts the pipeline
and keeps it. -/
theorem everyStepKeepsTheBlockInvariant : Obligations.EveryStepKeepsTheBlockInvariant := by
  unfold Obligations.EveryStepKeepsTheBlockInvariant
  intro s t hi hstep
  rcases step_reset_or_shifts hstep with ⟨-, rfl⟩ | ⟨-, -, e, hshift⟩
  · exact inv_resetEdge _
  · exact inv_of_shifts hshift hi

/-- Settles O57: both runs present the answers of the one stream's outcomes, which are values, so no
draw is among them. -/
theorem responsesDependOnRequestsAlone : Obligations.ResponsesDependOnRequestsAlone := by
  unfold Obligations.ResponsesDependOnRequestsAlone
  intro s s' k k' hs hs' hd hd' hin hstream hassigned hk hk'
  rw [responses_of_drained hs hd hstream hk,
    responses_of_drained hs' hd' (hin ▸ hstream) hk', ← hin]
  apply sameObservation_self
  intro r hr
  obtain ⟨outcome, hout, rfl⟩ := List.mem_map.mp hr
  obtain ⟨y, rfl⟩ := outcomes_values hassigned hout
  exact ⟨y, false, rfl⟩

/-- Settles O45, by what an edge does to each of the fields. -/
theorem noStepReconfiguresTheBlock : Obligations.NoStepReconfiguresTheBlock := by
  unfold Obligations.NoStepReconfiguresTheBlock
  intro s t hstep
  rw [← sample_rst_iff]
  rcases step_reset_or_shifts hstep with ⟨hr, rfl⟩ | ⟨hr, hin, e, hshift⟩
  · simp [hr]
  · exact ⟨hshift.params, (shiftIn_draws_le s e).trans hshift.draws, hin,
      by simp [hshift.wasReset, hr]⟩

/-- Settles O48: a step reads the ports only as an edge, and the two are one edge. -/
theorem unreadInputsHaveNoEffect : Obligations.UnreadInputsHaveNoEffect := by
  unfold Obligations.UnreadInputsHaveNoEffect
  intro s p q rest hrst hunread
  have hedge : p.edge = q.edge := by
    rcases hunread with hp | ⟨hp, hq⟩
    · rw [InPorts.edge, InPorts.edge, if_pos hp, if_pos (hrst ▸ hp)]
    · simp [InPorts.edge, hrst, hp, hq]
  rw [step_eq_run, step_eq_run, sample_cons rfl, sample_cons rfl, hedge]
  rfl

/-- Settles O52: before the first reset edge whatever enters the pipeline is lost, and every stage and
output is drawn anew. -/
theorem beforeTheFirstResetEverythingIsADraw :
    Obligations.BeforeTheFirstResetEverythingIsADraw := by
  unfold Obligations.BeforeTheFirstResetEverythingIsADraw
  refine ⟨fun params inputs => ⟨unknown_powerUp params inputs, rfl⟩, fun s i hr => ?_,
    fun s hr hnone => ?_⟩
  · obtain ⟨t, e, hexec, hshift, hin, -⟩ := exec_shifts i s
    exact ⟨t, hexec, unknown_of_shifts hshift hr, hin⟩
  · obtain ⟨t, e, hstep, hshift, hin, -⟩ := step_shifts (sample_rst_eq_false hnone)
    exact ⟨t, hstep, unknown_of_shifts hshift hr, hin⟩

/-- Settles O42: the state after reset is one a reset edge leaves. -/
theorem resetStateHoldsTheResetValues : Obligations.ResetStateHoldsTheResetValues :=
  ⟨cleared_reset, rfl, rfl, rfl, rfl⟩

/-- Settles O43: the state after reset is one a reset edge leaves, and that has the invariant. -/
theorem blockInvariantHoldsAtReset : Obligations.BlockInvariantHoldsAtReset := inv_reset

end Sys2Proof.Proofs

/-! The statements about the memory, which the block does not have (20_memory.md): what its pipeline
holds is answered once and in order (R47). -/

namespace Sys2Proof.Machine

/-- An outcome allows the response it is answered with (00 R10, 60 R170, R171). -/
theorem allows_answer (r : OpResult) : r.allows r.answer := by
  cases r with
  | value y => rfl
  | illegalOp => exact ⟨rfl, rfl⟩

end Sys2Proof.Machine

namespace Sys2Proof.Proofs

open Sys2Proof.Machine

/-- Settles O56: the responses of a run that drains the pipeline are the answers of the stream's
outcomes, in order, and each outcome allows its answer. -/
theorem everyRequestIsAnsweredOnceInOrder : Obligations.EveryRequestIsAnsweredOnceInOrder := by
  unfold Obligations.EveryRequestIsAnsweredOnceInOrder
  intro s k hs hd hstream hk
  rw [responses_of_drained hs hd hstream hk, List.forall₂_map_right_iff, List.forall₂_same]
  exact fun r _ => allows_answer r

end Sys2Proof.Proofs

/-! The opcode map and its words (30_encoding.md R60 to R65). -/

namespace Sys2Proof

/-- The upper half of the op codes is reserved (30 R64). -/
theorem decodeOp_of_reserved {op : OpCode} (a : Word) (h : 8 ≤ op.toNat) :
    decodeOp op a = .reserved op a := by
  unfold decodeOp
  split
  case h_9 => rfl
  all_goals omega

/-- Bit 3 of an op code marks the reserved ones (30 R65). -/
theorem opCode_bit3 : ∀ op : OpCode, op.getLsbD 3 = decide (8 ≤ op.toNat) := by decide

/-- The row an op code selects: the one of its number, or the reserved row (30 R65). -/
theorem rowIndex_decodeOp (op : OpCode) (a : Word) :
    (decodeOp op a).rowIndex = min op.toNat 8 := by
  rcases lt_or_ge op.toNat 8 with h | h
  · unfold decodeOp
    interval_cases op.toNat <;> rfl
  · rw [decodeOp_of_reserved a h, Nat.min_eq_right h, Instr.rowIndex]

theorem wf_decodeOp (op : OpCode) (a : Word) : (decodeOp op a).wf = true := by
  rcases lt_or_ge op.toNat 8 with h | h
  · unfold decodeOp
    interval_cases op.toNat <;> rfl
  · rw [decodeOp_of_reserved a h, Instr.wf, opCode_bit3, decide_eq_true h]

theorem operand_decodeOp (op : OpCode) (a : Word) : (decodeOp op a).operand = a := by
  unfold decodeOp
  split <;> rfl

theorem opCode_decodeOp (op : OpCode) (a : Word) : (decodeOp op a).opCode = op := by
  unfold decodeOp
  split
  case h_9 => rfl
  all_goals
    rename_i h
    exact BitVec.eq_of_toNat_eq h.symm

/-- The opcode map read backwards: a well-formed operation is what its op code selects (30 R64). -/
theorem decodeOp_opCode_operand {i : Instr} (h : i.wf = true) :
    decodeOp i.opCode i.operand = i := by
  cases i with
  | reserved op a =>
    rw [Instr.wf, opCode_bit3, decide_eq_true_eq] at h
    exact decodeOp_of_reserved a h
  | _ => rfl

theorem rowIndex_decode (w : Req) : (decode w).rowIndex = min w.op.toNat 8 :=
  rowIndex_decodeOp _ _

/-- `REQ[35]` is the top bit of the op field (30 R61). -/
theorem op_bit3 (w : Req) : w.op.getLsbD 3 = w.getLsbD 35 := by
  simp [Req.op]

/-- The row of an assigned operation has its op code in the match column, the op field in the mask
column (30 R64). -/
theorem opRow_of_assigned {n : Nat} (hn : n < 8) {r : OpRow} (hr : opRows[n]? = some r) :
    r.value = request (BitVec.ofNat 4 n) 0 ∧ r.mask = 0xF00000000#36 := by
  interval_cases n <;> cases hr <;> decide

/-- A row whose mask is the op field covers exactly the words of its op code (30 R64). -/
theorem covers_iff_op (name : String) (op : OpCode) (w : Req) :
    (OpRow.mk name (request op 0) 0xF00000000#36).covers w = true ↔ w.op = op := by
  constructor
  · intro h
    have hself := Laws.RowFits.covers_of_op w.op w.operand name
    rw [request_fields] at hself
    simp only [OpRow.covers, beq_iff_eq] at h hself
    have hop := congrArg Req.op (hself.symm.trans h)
    rwa [request_op, request_op] at hop
  · rintro rfl
    simpa using Laws.RowFits.covers_of_op w.op w.operand name

/-- The reserved row covers exactly the words with `REQ[35] = 1` (30 R64, R65). -/
theorem covers_reserved_iff (w : Req) :
    (OpRow.mk "(reserved)" 0x800000000#36 0x800000000#36).covers w = true ↔ 8 ≤ w.op.toNat := by
  rw [← decide_eq_true_iff (p := 8 ≤ w.op.toNat), ← opCode_bit3]
  constructor
  · intro h
    have hbit := congrArg (BitVec.getLsbD · 35) (beq_iff_eq.mp h)
    rw [op_bit3]
    simpa using hbit
  · intro h
    obtain ⟨r, hr, hcovers⟩ := Laws.RowFits.reserved w.op w.operand h
    cases hr
    simpa [encode, Instr.opCode, Instr.operand] using hcovers

end Sys2Proof

/-! The halves of the operand and of the result (30_encoding.md R62, R63). -/

namespace Sys2Proof.Machine

theorem lowHalf_toNat (a : Word) : (lowHalf a).toNat = a.toNat % 2 ^ 16 := by
  simp [lowHalf, BitVec.extractLsb'_toNat]

/-- A 16-bit result (30 R63): the value of these op codes is a half, zero-extended. -/
theorem opLayer_zext32 {op : OpCode} (a : Word)
    (h : op = 0x2#4 ∨ op = 0x3#4 ∨ op = 0x6#4 ∨ op = 0x7#4) :
    ∃ r, opLayer op a = .value (zext32 r) := by
  rcases h with rfl | rfl | rfl | rfl <;> exact ⟨_, rfl⟩

end Sys2Proof.Machine

/-! The words of a line of text (30_encoding.md R68, R69). -/

namespace Sys2Proof.Machine

open Sys2Proof.Claims

/-- A character of a word: neither a blank nor the start of a comment. -/
def inWord (c : Char) : Bool := c != ';' && c != ' ' && c != '\t'

/-- A text that is one word. -/
def IsWord (w : List Char) : Prop := w ≠ [] ∧ w.all inWord = true

/-- The splitting of a line at its blanks, one character before the words already found. -/
def splitBefore (c : Char) (words : List (List Char)) : List (List Char) :=
  if c == ' ' || c == '\t' then [] :: words
  else match words with
    | [] => [[c]]
    | w :: ws => (c :: w) :: ws

theorem splitBefore_blank (words : List (List Char)) : splitBefore ' ' words = [] :: words := rfl

theorem lineWords_eq (cs : List Char) : lineWords cs =
    ((cs.takeWhile (· != ';')).foldr splitBefore [[]]).filter (· != []) := rfl

theorem foldr_splitBefore_word {w : List Char} (h : w.all inWord = true) (v : List Char)
    (words : List (List Char)) : w.foldr splitBefore (v :: words) = (w ++ v) :: words := by
  induction w with
  | nil => rfl
  | cons c w ih =>
    obtain ⟨hc, hw⟩ := Bool.and_eq_true_iff.mp h
    rw [List.foldr_cons, ih hw]
    simp_all [inWord, splitBefore]

theorem takeWhile_word_append {w : List Char} (h : w.all inWord = true) (rest : List Char) :
    (w ++ rest).takeWhile (· != ';') = w ++ rest.takeWhile (· != ';') := by
  apply List.takeWhile_append_of_pos
  intro c hc
  have := List.all_eq_true.mp h c hc
  simp_all [inWord]

theorem lineWords_word {w : List Char} (h : IsWord w) : lineWords w = [w] := by
  obtain ⟨hne, hw⟩ := h
  have htake := takeWhile_word_append hw []
  rw [List.append_nil, List.takeWhile_nil, List.append_nil] at htake
  rw [lineWords_eq, htake, foldr_splitBefore_word hw]
  simp [hne]

theorem lineWords_word_blank {w : List Char} (h : IsWord w) (rest : List Char) :
    lineWords (w ++ ' ' :: rest) = w :: lineWords rest := by
  obtain ⟨hne, hw⟩ := h
  have hblank : (' ' :: rest).takeWhile (· != ';') = ' ' :: rest.takeWhile (· != ';') := rfl
  rw [lineWords_eq, lineWords_eq, takeWhile_word_append hw, hblank, List.foldr_append,
    List.foldr_cons, splitBefore_blank, foldr_splitBefore_word hw]
  simp [hne]

theorem lineWords_pair {w v : List Char} (hw : IsWord w) (hv : IsWord v) :
    lineWords (w ++ ' ' :: v) = [w, v] := by
  rw [lineWords_word_blank hw, lineWords_word hv]

/-- Text after `;` is a comment (30 R68). -/
theorem lineWords_comment (line comment : List Char) :
    lineWords (line ++ ';' :: comment) = lineWords line := by
  have htake : (line ++ ';' :: comment).takeWhile (· != ';') = line.takeWhile (· != ';') := by
    induction line with
    | nil => rfl
    | cons c line ih => simp only [List.cons_append, List.takeWhile_cons, ih]
  rw [lineWords_eq, lineWords_eq, htake]

/-! A line by its first word. -/

theorem parseLine_congr {cs ds : List Char} (h : lineWords cs = lineWords ds) :
    parseLine cs = parseLine ds := by
  rw [parseLine, parseLine, h]

/-- What the words after a mnemonic make of the line: one operand (30 R68). -/
def operandLine (code : OpCode) : List (List Char) → Option (List AsmLine)
  | [x] => (literal x).map fun v => [.op code v]
  | _ => none

theorem parseLine_of_opName {cs name : List Char} {args : List (List Char)} {code : OpCode}
    (h : lineWords cs = name :: args) (hname : opNames.lookup (name.map upper) = some code) :
    parseLine cs = operandLine code args := by
  have hdirective : ∀ d : List Char, opNames.lookup d = none → (name.map upper == d) ≠ true := by
    intro d hd heq
    rw [beq_iff_eq.mp heq, hd] at hname
    cases hname
  simp only [parseLine, h]
  rw [if_neg (hdirective _ (by decide)), if_neg (hdirective _ (by decide)),
    if_neg (hdirective _ (by decide)), hname]
  rcases args with _ | ⟨x, _ | ⟨y, args⟩⟩ <;> rfl

theorem parseLine_of_idle {cs : List Char} {args : List (List Char)}
    (h : lineWords cs = ['I', 'D', 'L', 'E'] :: args) :
    parseLine cs = (countOf args).map fun k => [.idle k] := by
  simp only [parseLine, h]
  rfl

theorem parseLine_of_reset {cs : List Char} {args : List (List Char)}
    (h : lineWords cs = ['R', 'E', 'S', 'E', 'T'] :: args) :
    parseLine cs = (countOf args).map fun k => [.reset k] := by
  simp only [parseLine, h]
  rfl

theorem parseLine_of_req {cs w : List Char} (h : lineWords cs = [['.', 'R', 'E', 'Q'], w]) :
    parseLine cs = (rawWord w).map fun x => [.raw x] := by
  simp only [parseLine, h]
  rfl

theorem assemble_singleton (l : AsmLine) : assemble [l] = l.edges := by
  simp [assemble]

/-! Numbers as text. -/

/-- `cs` spells the digits `ds` in the base. -/
def Spells (base : Nat) (cs : List Char) (ds : List Nat) : Prop :=
  List.Forall₂ (fun c d => digit base c = some d) cs ds

/-- One more digit after the number read so far, as `digits` reads it. -/
def pushDigit (base : Nat) (acc : Option Nat) (c : Char) : Option Nat :=
  acc.bind fun n => (digit base c).map (n * base + ·)

theorem pushDigit_some {base d : Nat} {c : Char} (h : digit base c = some d) (n : Nat) :
    pushDigit base (some n) c = some (n * base + d) := by
  simp [pushDigit, h]

/-- The first digit is pushed onto 0. -/
theorem digits_eq_foldl {base : Nat} {cs : List Char} (h : cs ≠ []) :
    digits base cs = cs.foldl (pushDigit base) (some 0) := by
  cases cs with
  | nil => exact absurd rfl h
  | cons c cs =>
    have hfirst : pushDigit base (some 0) c = digit base c := by simp [pushDigit]
    rw [List.foldl_cons, hfirst]
    rfl

theorem foldl_pushDigit_of_spells {base : Nat} {cs : List Char} {ds : List Nat}
    (h : Spells base cs ds) (n : Nat) :
    cs.foldl (pushDigit base) (some n) = some (ds.foldl (fun n d => n * base + d) n) := by
  induction h generalizing n with
  | nil => rfl
  | cons hd _ ih => rw [List.foldl_cons, pushDigit_some hd, ih, List.foldl_cons]

/-- The number of a digit string, most significant digit first. -/
theorem digits_of_spells {base : Nat} {cs : List Char} {ds : List Nat} (h : Spells base cs ds)
    (hne : ds ≠ []) : digits base cs = some (Nat.ofDigits base ds.reverse) := by
  have hcs : cs ≠ [] := by
    rintro rfl
    exact hne (List.forall₂_nil_left_iff.mp h)
  rw [digits_eq_foldl hcs, foldl_pushDigit_of_spells h, Nat.ofDigits_eq_foldr, List.foldr_reverse]
  simp only [Nat.mul_comm, Nat.add_comm, Nat.cast_id]

theorem inWord_of_digit {base d : Nat} {c : Char} (h : digit base c = some d) :
    inWord c = true := by
  have hsep (e : Char) (he : digit base e = none) : c ≠ e := by
    rintro rfl
    cases he.symm.trans h
  have hsemicolon := hsep ';' (by simp [digit])
  have hblank := hsep ' ' (by simp [digit])
  have htab := hsep '\t' (by simp [digit])
  simp [inWord, hsemicolon, hblank, htab]

theorem all_inWord_of_spells {base : Nat} {cs : List Char} {ds : List Nat} (h : Spells base cs ds) :
    cs.all inWord = true := by
  rw [List.all_eq_true]
  intro c hc
  obtain ⟨i, hi, rfl⟩ := List.mem_iff_getElem.mp hc
  exact inWord_of_digit (h.get hi (h.length_eq ▸ hi))

/-- What follows `0x` is hexadecimal (30 R68). -/
theorem literal_hex (cs : List Char) : literal ('0' :: 'x' :: cs) = digits 16 cs := rfl

/-- `x` is no decimal digit, so a string of those is read as a decimal number (30 R68). -/
theorem literal_decimal {cs : List Char} {ds : List Nat} (h : Spells 10 cs ds) :
    literal cs = digits 10 cs := by
  unfold literal
  split
  case h_1 =>
    obtain _ | ⟨-, _ | ⟨hx, -⟩⟩ := h
    exact absurd hx (by simp [digit])
  case h_2 => rfl

theorem isWord_hex {cs : List Char} {ds : List Nat} (h : Spells 16 cs ds) :
    IsWord ('0' :: 'x' :: cs) := by
  refine ⟨List.cons_ne_nil _ _, ?_⟩
  rw [List.all_cons, List.all_cons, all_inWord_of_spells h]
  decide

theorem digit_decimalChar : ∀ d < 10, digit 10 (Nat.digitChar d) = some d := by decide

/-- A hexadecimal digit in either case (30 R68; log 8). -/
theorem digit_hexadecimalChar : ∀ d < 16, digit 16 (Nat.digitChar d) = some d ∧
    digit 16 (Nat.digitChar d).toUpper = some d := by decide

theorem spells_decimal {ds : List Nat} (h : ∀ d ∈ ds, d < 10) :
    Spells 10 (ds.map Nat.digitChar) ds := by
  rw [Spells, List.forall₂_map_left_iff, List.forall₂_same]
  exact fun d hd => digit_decimalChar d (h d hd)

theorem spells_hexadecimal {cs : List Char} {ds : List Nat} (h : ∀ d ∈ ds, d < 16)
    (hcs : List.Forall₂ (fun c d => c = Nat.digitChar d ∨ c = (Nat.digitChar d).toUpper) cs ds) :
    Spells 16 cs ds := by
  induction hcs with
  | nil => exact .nil
  | cons hc _ ih =>
    obtain ⟨hd, hds⟩ := List.forall_mem_cons.mp h
    obtain ⟨hlower, hupper⟩ := digit_hexadecimalChar _ hd
    refine .cons ?_ (ih hds)
    rcases hc with rfl | rfl
    · exact hlower
    · exact hupper

/-- The model reads every literal of R68 as its number, and it is one word of the line. -/
theorem literal_of_isLiteral {text : List Char} {x : Nat} (h : IsLiteral text x) :
    IsWord text ∧ literal text = some x := by
  obtain ⟨ds, hne, ⟨hds, rfl, rfl⟩ | ⟨hds, rfl, cs, rfl, hcs⟩⟩ := h
  · have hspells := spells_decimal hds
    exact ⟨⟨mt List.map_eq_nil_iff.mp hne, all_inWord_of_spells hspells⟩,
      (literal_decimal hspells).trans (digits_of_spells hspells hne)⟩
  · have hspells := spells_hexadecimal hds hcs
    exact ⟨isWord_hex hspells, (literal_hex cs).trans (digits_of_spells hspells hne)⟩

theorem countOf_literal {text : List Char} {n : Nat} (h : literal text = some n) :
    countOf [text] = some n := h

theorem digit_hexChar : ∀ d < 16, digit 16 (hexChar d) = some d := by decide

/-- `hexText` spells the low digits of a number. -/
theorem spells_hexText (k n : Nat) : ∃ ds, Spells 16 (hexText k n) ds ∧ ds.length = k ∧
    Nat.ofDigits 16 ds.reverse = n % 16 ^ k := by
  induction k with
  | zero => exact ⟨[], .nil, rfl, (Nat.mod_one n).symm⟩
  | succ k ih =>
    obtain ⟨ds, hspells, hlen, hvalue⟩ := ih
    refine ⟨n / 16 ^ k % 16 :: ds,
      .cons (digit_hexChar _ (Nat.mod_lt _ (by decide))) hspells, congrArg Nat.succ hlen, ?_⟩
    rw [List.reverse_cons, Nat.ofDigits_append, Nat.ofDigits_singleton, List.length_reverse, hlen,
      hvalue, Nat.mod_pow_succ]

theorem hexText_length (k n : Nat) : (hexText k n).length = k := by
  obtain ⟨ds, hspells, hlen, -⟩ := spells_hexText k n
  rw [hspells.length_eq, hlen]

theorem isWord_wordText (w : Req) : IsWord (wordText w) := by
  obtain ⟨ds, hspells, -⟩ := spells_hexText 9 w.toNat
  exact isWord_hex hspells

theorem rawWord_of_length {cs : List Char} (h : cs.length = 9) :
    rawWord ('0' :: 'x' :: cs) = digits 16 cs := if_pos h

/-- `.REQ` reads the listing of a request word back (30 R68, R69). -/
theorem rawWord_wordText (w : Req) : rawWord (wordText w) = some w.toNat := by
  obtain ⟨ds, hspells, hlen, hvalue⟩ := spells_hexText 9 w.toNat
  have hlt : w.toNat < 16 ^ 9 := w.isLt
  have hne : ds ≠ [] := by
    rintro rfl
    cases hlen
  rw [wordText, List.cons_append, List.cons_append, List.nil_append,
    rawWord_of_length (hexText_length 9 _), digits_of_spells hspells hne, hvalue,
    Nat.mod_eq_of_lt hlt]

/-! Names in any letter case. -/

/-- A character of a mnemonic: it stands for itself in either case. -/
def nameChar (d : Char) : Bool :=
  upper d == d && upper d.toLower == d && inWord d && inWord d.toLower

theorem nameChar_of_mnemonic :
    ∀ p ∈ mnemonics, p.1 ≠ [] ∧ p.1.all nameChar = true := by decide

theorem lookup_of_mnemonic : ∀ p ∈ mnemonics, opNames.lookup p.1 = some p.2 := by decide

theorem upper_and_inWord_of_anyCase {spelled name : List Char} (h : AnyCase spelled name)
    (hname : name.all nameChar = true) :
    spelled.map upper = name ∧ spelled.all inWord = true := by
  induction h with
  | nil => simp
  | @cons c d _ _ hc _ ih =>
    obtain ⟨hd, hrest⟩ := Bool.and_eq_true_iff.mp hname
    obtain ⟨hupper, hword⟩ := ih hrest
    have hchar : upper c = d ∧ inWord c = true := by
      rcases hc with rfl | rfl <;> simp_all [nameChar]
    rw [List.map_cons, hupper, hchar.1, List.all_cons, hchar.2, hword]
    exact ⟨rfl, rfl⟩

theorem isWord_of_anyCase {spelled name : List Char} (h : AnyCase spelled name)
    (hne : name ≠ []) (hname : name.all nameChar = true) : IsWord spelled := by
  refine ⟨?_, (upper_and_inWord_of_anyCase h hname).2⟩
  rintro rfl
  exact hne (List.forall₂_nil_left_iff.mp h)

/-- A line of a mnemonic in any letter case and a literal is that operation's line (30 R68). -/
theorem parseLine_mnemonic {name spelled text : List Char} {code : OpCode} {x : Nat}
    (hmem : (name, code) ∈ mnemonics) (hspelled : AnyCase spelled name) (htext : IsLiteral text x) :
    parseLine (spelled ++ ' ' :: text) = some [.op code x] := by
  obtain ⟨hne, hname⟩ := nameChar_of_mnemonic _ hmem
  obtain ⟨hword, hliteral⟩ := literal_of_isLiteral htext
  have hlookup : opNames.lookup (spelled.map upper) = some code := by
    rw [(upper_and_inWord_of_anyCase hspelled hname).1]
    exact lookup_of_mnemonic _ hmem
  rw [parseLine_of_opName (lineWords_pair (isWord_of_anyCase hspelled hne hname) hword) hlookup,
    operandLine, hliteral, Option.map_some]

/-! The edges of a line (30 R68, R69). -/

theorem edges_op (code : OpCode) {x : Nat} (h : x < 2 ^ 32) :
    (AsmLine.op code x).edges = some [requestPorts (request code (BitVec.ofNat 32 x))] := if_pos h

theorem edges_op_of_wide (code : OpCode) {x : Nat} (h : 2 ^ 32 ≤ x) :
    (AsmLine.op code x).edges = none := if_neg (Nat.not_lt.mpr h)

theorem edges_idle {n : Nat} (h : 1 ≤ n) :
    (AsmLine.idle n).edges = some (List.replicate n idlePorts) := if_pos h

theorem edges_reset {n : Nat} (h : 1 ≤ n) :
    (AsmLine.reset n).edges = some (List.replicate n resetPorts) := if_pos h

theorem edges_raw (w : Req) : (AsmLine.raw w.toNat).edges = some [requestPorts w] := by
  rw [AsmLine.edges, if_pos w.isLt, BitVec.ofNat_toNat, BitVec.setWidth_eq]

theorem accepts_requestPorts (w : Req) : accepts (requestPorts w) := ⟨rfl, rfl⟩

/-- The ports carry the whole request word (30 R60). -/
theorem request_requestPorts (w : Req) :
    request (requestPorts w).op (requestPorts w).a = w := request_fields w

theorem request_toNat (code : OpCode) {x : Nat} (h : x < 2 ^ 32) :
    (request code (BitVec.ofNat 32 x)).toNat = code.toNat <<< 32 ||| x := by
  rw [request, BitVec.toNat_append, BitVec.toNat_ofNat, Nat.mod_eq_of_lt h]

theorem halfInput_iff : ∀ code : OpCode, halfInput code = true ↔
    code.toNat = 2 ∨ code.toNat = 3 ∨ code.toNat = 4 ∨ code.toNat = 5 := by decide

/-- Two names of one op code read alike, whatever follows (30 R69). -/
theorem parseLine_same_opName {name other : List Char} (code : OpCode) (hname : IsWord name)
    (hother : IsWord other) (h : opNames.lookup (name.map upper) = some code)
    (h' : opNames.lookup (other.map upper) = some code) (rest : List Char) :
    parseLine (name ++ ' ' :: rest) = parseLine (other ++ ' ' :: rest) := by
  rw [parseLine_of_opName (lineWords_word_blank hname rest) h,
    parseLine_of_opName (lineWords_word_blank hother rest) h']

end Sys2Proof.Machine

/-! The statements about the request encoding (30_encoding.md). -/

namespace Sys2Proof.Proofs

open Sys2Proof.Machine Sys2Proof.Claims

/-- Settles O6: the op code and the operand come back from the word, and the opcode map gives each
well-formed operation from its own op code. -/
theorem decodeUndoesEncode : Obligations.DecodeUndoesEncode := by
  unfold Obligations.DecodeUndoesEncode
  intro i hwf
  rw [encode, decode_request, decodeOp_opCode_operand hwf]

/-- Settles O7: decoding keeps both fields of the word. -/
theorem encodeUndoesDecode : Obligations.EncodeUndoesDecode := by
  unfold Obligations.EncodeUndoesDecode
  intro w
  refine ⟨wf_decodeOp _ _, ?_⟩
  rw [encode, decode, opCode_decodeOp, operand_decodeOp, request_fields]

/-- Settles O8: the row is the op code's number, cut off at the reserved row. -/
theorem opFieldAloneSelectsTheOperation : Obligations.OpFieldAloneSelectsTheOperation := by
  unfold Obligations.OpFieldAloneSelectsTheOperation
  refine ⟨fun w => ?_, fun op a a' => ?_⟩
  · rw [← op_bit3, opCode_bit3, rowIndex_decode, decide_eq_false_iff_not]
    omega
  · rw [rowIndex_decode, rowIndex_decode, request_op, request_op]

/-- Settles O9: an assigned row covers the words of its op code, the last row those of all reserved
codes. -/
theorem rowsCoverEachWordOnce : Obligations.RowsCoverEachWordOnce := by
  unfold Obligations.RowsCoverEachWordOnce
  intro w n r hr
  have hn : n < 9 := (List.getElem?_eq_some_iff.mp hr).1
  rw [rowIndex_decode]
  rcases Nat.lt_succ_iff_lt_or_eq.mp hn with hassigned | rfl
  · obtain ⟨name, value, mask⟩ := r
    obtain ⟨rfl, rfl⟩ := opRow_of_assigned hassigned hr
    rw [covers_iff_op, ← BitVec.toNat_inj, BitVec.toNat_ofNat]
    omega
  · cases hr
    rw [covers_reserved_iff]
    omega

/-- Settles O10: these operations read the low half alone, and these results are halves. -/
theorem halfOperandsAndResultsAreAssembled : Obligations.HalfOperandsAndResultsAreAssembled := by
  unfold Obligations.HalfOperandsAndResultsAreAssembled
  constructor
  · intro s a a' _ hmod
    have hlow : lowHalf a = lowHalf a' := by
      apply BitVec.eq_of_toNat_eq
      rw [lowHalf_toNat, lowHalf_toNat, hmod]
    simp only [exec, execF16tou16, execU16tof16, execH2f, execH2fLut, yF16tou16, yU16tof16, yH2f,
      yH2fLut_eq_yH2f, hlow, and_self]
  · intro op a y hop hvalue
    obtain ⟨r, hr⟩ := opLayer_zext32 a hop
    obtain rfl := OpResult.value.inj (hr.symm.trans hvalue)
    rw [zext32_toNat]
    exact r.isLt

/-- Settles O11: the line splits into its mnemonic and its literal, which the model reads as R64 and
R68 say; a comment is cut off before the splitting. -/
theorem requestLinesEncodeTheirOperand : Obligations.RequestLinesEncodeTheirOperand := by
  unfold Obligations.RequestLinesEncodeTheirOperand
  refine ⟨fun name code hmem => ⟨lookup_of_mnemonic _ hmem, fun spelled text x hspelled htext => ?_,
    fun x => ?_⟩, fun line comment => parseLine_congr (lineWords_comment line comment)⟩
  · rw [parseLine_mnemonic hmem hspelled htext, Option.bind_some, assemble_singleton]
    refine ⟨rfl, fun hx => ⟨_, edges_op code hx, accepts_requestPorts _, ?_⟩, edges_op_of_wide code⟩
    rw [request_requestPorts, request_toNat code hx]
  · rw [AsmLine.warns, Bool.and_eq_true, halfInput_iff, decide_eq_true_iff]

/-- Settles O12: the names by the words of the line, the counts by the literals, and `.REQ` by
reading back the listing of the word. -/
theorem aliasesAndDirectivesExpand : Obligations.AliasesAndDirectivesExpand := by
  unfold Obligations.AliasesAndDirectivesExpand
  have hidle : IsWord ['I', 'D', 'L', 'E'] := ⟨by decide, by decide⟩
  have hreset : IsWord ['R', 'E', 'S', 'E', 'T'] := ⟨by decide, by decide⟩
  have hreq : IsWord ['.', 'R', 'E', 'Q'] := ⟨by decide, by decide⟩
  have hh2f : IsWord ['H', '2', 'F'] := ⟨by decide, by decide⟩
  have hf2h : IsWord ['F', '2', 'H'] := ⟨by decide, by decide⟩
  have hwiden : IsWord ['H', 'A', 'L', 'F', '_', 'T', 'O', '_', 'F', 'L', 'O', 'A', 'T'] :=
    ⟨by decide, by decide⟩
  have hnarrow : IsWord ['F', 'L', 'O', 'A', 'T', '_', 'T', 'O', '_', 'H', 'A', 'L', 'F'] :=
    ⟨by decide, by decide⟩
  refine ⟨fun rest => ⟨?_, ?_⟩, by decide, by decide, fun text n htext => ?_, fun n hn => ?_,
    fun w => ?_⟩
  · exact parseLine_same_opName 0x4#4 hwiden hh2f (by decide) (by decide) rest
  · exact parseLine_same_opName 0x6#4 hnarrow hf2h (by decide) (by decide) rest
  · obtain ⟨hword, hliteral⟩ := literal_of_isLiteral htext
    have hcount := countOf_literal hliteral
    constructor
    · refine (parseLine_of_idle (lineWords_pair hidle hword)).trans ?_
      rw [hcount, Option.map_some]
    · refine (parseLine_of_reset (lineWords_pair hreset hword)).trans ?_
      rw [hcount, Option.map_some]
  · refine ⟨⟨_, edges_idle hn, List.length_replicate, fun p hp => ?_⟩,
      ⟨_, edges_reset hn, List.length_replicate, fun p hp => ?_⟩⟩
    · obtain rfl := List.eq_of_mem_replicate hp
      exact ⟨rfl, rfl⟩
    · obtain rfl := List.eq_of_mem_replicate hp
      exact ⟨rfl, rfl⟩
  · refine ⟨congrArg (· + 2) (hexText_length 9 _), ?_, _, edges_raw w, accepts_requestPorts w,
      request_requestPorts w⟩
    refine (parseLine_of_req (lineWords_pair hreq (isWord_wordText w))).trans ?_
    rw [rawWord_wordText, Option.map_some]

/-- Settles O5: each row of the opcode map on a word of its own. -/
theorem writtenOutWordsDecode : Obligations.WrittenOutWordsDecode := by
  unfold Obligations.WrittenOutWordsDecode
  decide

end Sys2Proof.Proofs

/-! The edge that accepts an operation, as the claims name it (60_exceptions.md R170,
70_reset_and_hazards.md R194, R195). -/

namespace Sys2Proof.Machine

open Sys2Proof.Claims

/-- With `LATENCY = 0` the outputs are what enters (70 R195). -/
theorem shiftIn_out_combinational {s : State} (st : Stage) (hr : s.wasReset = true)
    (hlat : s.params.latency = 0) : (s.shiftIn st).out = st.drive := by
  rw [shiftIn_out s st hr, hlat, List.take_zero, outputsOf_nil]

/-- An edge without reset that leaves the host's stream alone advances a block that has been reset. -/
theorem advanced_of_shifts {s t : State} {e : Stage} (hs : Ready s) (h : Shifts s t e)
    (hin : t.inputs = s.inputs) : Advanced s t e where
  depth := by rw [h.stages, shiftIn_depth e hs.2]
  first hpos := by rw [h.stages, shiftIn_stage_zero e hs.1 hpos]
  shifted k hk := by rw [h.stages, shiftIn_stage_succ e hs.1 hk]
  outputs k last hlat hlast := by
    have hend : (s.shiftIn e).stages.getLast? = some last := by
      rw [List.getLast?_eq_getElem?, shiftIn_depth e hs.2, hlat, Nat.add_sub_cancel, ← h.stages,
        hlast]
    rw [h.out, shiftIn_driven s e hend, Stage.drive]
  combinational hlat := by rw [h.out, shiftIn_out_combinational e hs.1 hlat, Stage.drive]
  wasReset := h.wasReset
  params := h.params
  inputs := hin

/-- An operation whose edge responds with `y` completes with `y` wherever the block has been reset, and
takes no draw and records no fault. -/
theorem answersWith_of_respond {i : Instr} {s : State} {y : Word} (hs : Ready s)
    (h : exec i s = .next (s.respond y)) : AnswersWith i s y :=
  ⟨s.respond y, h, advanced_of_shifts hs (shifts_respond s y) (respond_inputs s y),
    by rw [respond_draws, shiftIn_draws s _ hs.1], respond_faults s y⟩

end Sys2Proof.Machine

/-! The classes of a format by its exponent and mantissa fields (40_formats_reinterpret.md R82, R83). -/

namespace Sys2Proof.Machine

section Classes

variable {n k : Nat} (top e : BitVec n) (m : BitVec k)

/-- The case split that R82 and R83 have in common: `top` is the exponent of all ones. -/
def classOfFields : FloatClass :=
  if e = 0#n then
    if m = 0#k then .zero else .subnormal
  else if e = top then
    if m = 0#k then .infinity else .nan
  else .normal

/-- Each class has its condition, the exponents 0 and `top` being two. -/
theorem classOfFields_iff (htop : top ≠ 0#n) :
    (classOfFields top e m = .zero ↔ e = 0#n ∧ m = 0#k) ∧
    (classOfFields top e m = .subnormal ↔ e = 0#n ∧ m ≠ 0#k) ∧
    (classOfFields top e m = .normal ↔ e ≠ 0#n ∧ e ≠ top) ∧
    (classOfFields top e m = .infinity ↔ e = top ∧ m = 0#k) ∧
    (classOfFields top e m = .nan ↔ e = top ∧ m ≠ 0#k) := by
  unfold classOfFields
  by_cases hzero : e = 0#n
  · by_cases hm : m = 0#k <;> simp [hzero, hm, htop.symm]
  · by_cases hinf : e = top
    · by_cases hm : m = 0#k <;> simp [hinf, hm, htop]
    · simp [hzero, hinf]

end Classes

theorem halfClass_eq_classOfFields (h : Half) :
    halfClass h = classOfFields 31 (halfExp h) (halfMant h) := rfl

theorem floatClass_eq_classOfFields (f : Word) :
    floatClass f = classOfFields 255 (floatExp f) (floatMant f) := rfl

/-- The exponents of the normal halves (40 R82). -/
theorem normalHalfExp_iff (e : BitVec 5) : e ≠ 0 ∧ e ≠ 31 ↔ 1 ≤ e.toNat ∧ e.toNat ≤ 30 := by
  bv_omega

/-- The exponents of the normal floats (40 R83). -/
theorem normalFloatExp_iff (e : BitVec 8) : e ≠ 0 ∧ e ≠ 255 ↔ 1 ≤ e.toNat ∧ e.toNat ≤ 254 := by
  bv_omega

end Sys2Proof.Machine

/-! The reinterpretations on the operation layer (40_formats_reinterpret.md R86 to R89). -/

namespace Sys2Proof.Machine

/-- Zero-extending the low half is cutting off the high half. -/
theorem zext32_lowHalf (a : Word) : zext32 (lowHalf a) = BitVec.ofNat 32 (a.toNat % 2 ^ 16) := by
  apply BitVec.eq_of_toNat_eq
  rw [zext32_toNat, lowHalf_toNat, BitVec.toNat_ofNat]
  omega

theorem opLayer_f32tou32 (a : Word) : opLayer 0x0#4 a = .value a := rfl

theorem opLayer_u32tof32 (a : Word) : opLayer 0x1#4 a = .value a := rfl

theorem opLayer_f16tou16 (a : Word) : opLayer 0x2#4 a = .value (zext32 (lowHalf a)) := rfl

theorem opLayer_u16tof16 (a : Word) : opLayer 0x3#4 a = .value (zext32 (lowHalf a)) := rfl

/-- The 16-bit reinterpretations keep a zero-extended half (40 R90). -/
theorem opLayer_f16tou16_zext32 (x : Half) : opLayer 0x2#4 (zext32 x) = .value (zext32 x) := by
  rw [opLayer_f16tou16, lowHalf_zext32]

theorem opLayer_u16tof16_zext32 (x : Half) : opLayer 0x3#4 (zext32 x) = .value (zext32 x) := by
  rw [opLayer_u16tof16, lowHalf_zext32]

/-- Two operations that both keep `x` undo each other on it. -/
theorem opLayer_undoes {op op' : OpCode} {x : Word} (hkeep : opLayer op x = .value x)
    (hkeep' : opLayer op' x = .value x) (y : Word) :
    (opLayer op' x = .value y → opLayer op y = .value x) ∧
    (opLayer op x = .value y → opLayer op' y = .value x) := by
  constructor
  · intro hy
    obtain rfl := OpResult.value.inj (hkeep'.symm.trans hy)
    exact hkeep
  · intro hy
    obtain rfl := OpResult.value.inj (hkeep.symm.trans hy)
    exact hkeep'

end Sys2Proof.Machine

/-! The statements about the formats and the reinterpretations (40_formats_reinterpret.md). -/

namespace Sys2Proof.Proofs

open Sys2Proof.Machine Sys2Proof.Claims

/-- Settles O2: both edges respond with the operand, and a response enters the pipeline and changes
nothing else. -/
theorem wordReinterpretationsCopyTheOperand : Obligations.WordReinterpretationsCopyTheOperand := by
  unfold Obligations.WordReinterpretationsCopyTheOperand
  refine ⟨fun a => ⟨decode_request 0x0#4 a, decode_request 0x1#4 a⟩, fun s a hs => ?_⟩
  exact ⟨answersWith_of_respond hs rfl, answersWith_of_respond hs rfl⟩

/-- Settles O3: both edges respond with the low half of the operand, zero-extended. -/
theorem halfReinterpretationsCopyTheLowHalf : Obligations.HalfReinterpretationsCopyTheLowHalf := by
  unfold Obligations.HalfReinterpretationsCopyTheLowHalf
  refine ⟨fun a => ⟨decode_request 0x2#4 a, decode_request 0x3#4 a⟩, fun s a hs => ?_⟩
  rw [← zext32_lowHalf]
  exact ⟨answersWith_of_respond hs rfl, answersWith_of_respond hs rfl⟩

/-- Settles O1: both formats split their fields in one way, and the normal exponents are those between
0 and all ones. -/
theorem classesAreTheirConditions : Obligations.ClassesAreTheirConditions := by
  unfold Obligations.ClassesAreTheirConditions
  constructor
  · intro h
    rw [halfClass_eq_classOfFields, ← normalHalfExp_iff]
    exact classOfFields_iff 31 _ _ (by decide)
  · intro f
    rw [floatClass_eq_classOfFields, ← normalFloatExp_iff]
    exact classOfFields_iff 255 _ _ (by decide)

/-- Settles O4: each of the operations keeps the values it is asked about. -/
theorem reinterpretationsUndoEachOther : Obligations.ReinterpretationsUndoEachOther := by
  unfold Obligations.ReinterpretationsUndoEachOther
  refine ⟨fun x y => ?_, fun x y => ?_, fun x => ⟨?_, ?_⟩⟩
  · exact opLayer_undoes (opLayer_f32tou32 x) (opLayer_u32tof32 x) y
  · exact opLayer_undoes (opLayer_f16tou16_zext32 x) (opLayer_u16tof16_zext32 x) y
  · rw [opLayer_f32tou32, opLayer_u32tof32]
  · rw [opLayer_f16tou16, opLayer_u16tof16]

end Sys2Proof.Proofs

/-! The fields of an expanded half, class by class (41_half_to_float.md R101 to R105). -/

namespace Sys2Proof.Machine

/-- The highest set bit brackets a non-zero number between two powers of two (00 R8). -/
theorem msb_bounds {m : Nat} (hm : m ≠ 0) : 2 ^ msb m ≤ m ∧ m < 2 ^ (msb m + 1) :=
  ⟨Nat.log2_self_le hm, Nat.lt_log2_self⟩

theorem msb_le_of_lt {m : Nat} (hm : m < 2 ^ 10) : msb m ≤ 9 := by
  by_cases hzero : m = 0
  · simp [hzero, msb]
  · exact Nat.le_of_lt_succ ((Nat.log2_lt hzero).mpr hm)

/-- The mantissa of a subnormal half in R102's closed form and in its shifting form: the leading 1 is
cut off and the rest ends in 13 zeros. -/
theorem renormalised_eq_shifted {m p : Nat} (hp : p ≤ 9) :
    m * 2 ^ (23 - p) % 2 ^ 23 = (m * 2 ^ (10 - p) % 2 ^ 10) * 2 ^ 13 := by
  rw [show 23 - p = (10 - p) + 13 by omega, pow_add, ← mul_assoc,
    show (2 : Nat) ^ 23 = 2 ^ 10 * 2 ^ 13 by norm_num, Nat.mul_mod_mul_right]

/-- The leading 1 that `renormalised_eq_shifted` cuts off stands at bit 23. -/
theorem renormalised_add {m : Nat} (hm : m ≠ 0) (hp : msb m ≤ 9) :
    m * 2 ^ (23 - msb m) % 2 ^ 23 + 2 ^ 23 = m * 2 ^ (23 - msb m) := by
  obtain ⟨hlow, hhigh⟩ := msb_bounds hm
  have hlow' : 2 ^ 23 ≤ m * 2 ^ (23 - msb m) := calc
    2 ^ 23 = 2 ^ msb m * 2 ^ (23 - msb m) := by rw [← pow_add]; congr 1; omega
    _ ≤ m * 2 ^ (23 - msb m) := Nat.mul_le_mul_right _ hlow
  have hhigh' : m * 2 ^ (23 - msb m) < 2 ^ 24 := calc
    m * 2 ^ (23 - msb m) < 2 ^ (msb m + 1) * 2 ^ (23 - msb m) :=
      Nat.mul_lt_mul_of_pos_right hhigh (by positivity)
    _ = 2 ^ 24 := by rw [← pow_add]; congr 1; omega
  omega

/-- A half's mantissa in the high bits of a float's. -/
theorem widenedMant_toNat (m : BitVec 10) : (m ++ 0#13 : BitVec 23).toNat = m.toNat * 2 ^ 13 := by
  rw [BitVec.toNat_append, BitVec.toNat_ofNat, Nat.zero_mod, Nat.or_zero, Nat.shiftLeft_eq]

variable {h : Half}

theorem expand_of_zero (he : halfExp h = 0) (hm : halfMant h = 0) :
    expand h = packFloat (halfSign h) 0x00#8 0#23 := by
  simp [expand, he, hm]

theorem expand_of_subnormal (he : halfExp h = 0) (hm : halfMant h ≠ 0) :
    expand h = expandSubnormal (halfSign h) (halfMant h).toNat := by
  have hm' : (halfMant h).toNat ≠ 0 := BitVec.toNat_ne_iff_ne.mpr hm
  simp [expand, he, hm']

/-- An infinity or a NaN: an infinity's mantissa is widened from zero (41 R103, R104). -/
theorem expand_of_special (he : halfExp h = 31) :
    expand h = packFloat (halfSign h) 0xFF#8 (halfMant h ++ 0#13) := by
  by_cases hm : halfMant h = 0
  · simp [expand, he, hm]
  · have hm' : (halfMant h).toNat ≠ 0 := BitVec.toNat_ne_iff_ne.mpr hm
    simp [expand, he, hm']

theorem expand_of_normal (he : halfExp h ≠ 0) (he' : halfExp h ≠ 31) :
    expand h = packFloat (halfSign h) (BitVec.ofNat 8 ((halfExp h).toNat + 112))
      (halfMant h ++ 0#13) := by
  have hnot : (halfExp h).toNat ≠ 0 := BitVec.toNat_ne_iff_ne.mpr he
  have hnot' : (halfExp h).toNat ≠ 31 := BitVec.toNat_ne_iff_ne.mpr he'
  simp [expand, hnot, hnot']

/-- 41 R111: the sign is kept. -/
@[simp] theorem floatSign_expand (h : Half) : floatSign (expand h) = halfSign h := by
  by_cases he : halfExp h = 0
  · by_cases hm : halfMant h = 0
    · rw [expand_of_zero he hm, floatSign_packFloat]
    · rw [expand_of_subnormal he hm, expandSubnormal, floatSign_packFloat]
  · by_cases he' : halfExp h = 31
    · rw [expand_of_special he', floatSign_packFloat]
    · rw [expand_of_normal he he', floatSign_packFloat]

theorem floatExp_expand_of_zero (he : halfExp h = 0) (hm : halfMant h = 0) :
    floatExp (expand h) = 0 := by
  rw [expand_of_zero he hm, floatExp_packFloat]
  rfl

theorem floatExp_expand_of_subnormal (he : halfExp h = 0) (hm : halfMant h ≠ 0) :
    (floatExp (expand h)).toNat = msb (halfMant h).toNat + 103 := by
  have hp := msb_le_of_lt (halfMant h).isLt
  rw [expand_of_subnormal he hm, expandSubnormal, floatExp_packFloat, BitVec.toNat_ofNat]
  omega

theorem floatExp_expand_of_special (he : halfExp h = 31) : floatExp (expand h) = 255 := by
  rw [expand_of_special he, floatExp_packFloat]
  rfl

theorem floatExp_expand_of_normal (he : halfExp h ≠ 0) (he' : halfExp h ≠ 31) :
    (floatExp (expand h)).toNat = (halfExp h).toNat + 112 := by
  rw [expand_of_normal he he', floatExp_packFloat, BitVec.toNat_ofNat]
  have := (halfExp h).isLt
  omega

theorem floatMant_expand_of_zero (he : halfExp h = 0) (hm : halfMant h = 0) :
    floatMant (expand h) = 0 := by
  rw [expand_of_zero he hm, floatMant_packFloat]
  rfl

theorem floatMant_expand_of_subnormal (he : halfExp h = 0) (hm : halfMant h ≠ 0) :
    (floatMant (expand h)).toNat =
      (halfMant h).toNat * 2 ^ (23 - msb (halfMant h).toNat) % 2 ^ 23 := by
  rw [expand_of_subnormal he hm, expandSubnormal, floatMant_packFloat, BitVec.toNat_ofNat,
    show 0x7FFFFF = 2 ^ 23 - 1 by norm_num, Nat.and_two_pow_sub_one_eq_mod, Nat.mod_mod,
    Nat.shiftLeft_eq]

/-- With its leading 1 back in place the mantissa is the subnormal's, left-aligned in 24 bits. -/
theorem floatMant_expand_add_of_subnormal (he : halfExp h = 0) (hm : halfMant h ≠ 0) :
    (floatMant (expand h)).toNat + 2 ^ 23 =
      (halfMant h).toNat * 2 ^ (23 - msb (halfMant h).toNat) := by
  have hm' : (halfMant h).toNat ≠ 0 := BitVec.toNat_ne_iff_ne.mpr hm
  rw [floatMant_expand_of_subnormal he hm, renormalised_add hm' (msb_le_of_lt (halfMant h).isLt)]

/-- 41 R103 to R105: the mantissa of all but zeros and subnormals is widened. -/
theorem floatMant_expand_of_exp_ne_zero (he : halfExp h ≠ 0) :
    (floatMant (expand h)).toNat = (halfMant h).toNat * 2 ^ 13 := by
  by_cases he' : halfExp h = 31
  · rw [expand_of_special he', floatMant_packFloat, widenedMant_toNat]
  · rw [expand_of_normal he he', floatMant_packFloat, widenedMant_toNat]

end Sys2Proof.Machine

/-! The value of an expanded half (41_half_to_float.md R109, 40_formats_reinterpret.md R84). -/

namespace Sys2Proof.Machine

open Sys2Proof.Proofs

variable {h : Half} {f : Word}

/-- A pattern whose exponent is not all ones stands for its finite number. -/
theorem val16_of_finite (he : halfExp h ≠ 31) : val16 h = .finite (finite16 h) := by
  obtain ⟨-, -, -, hinf, hnan⟩ := classesAreTheirConditions.1 h
  cases hc : halfClass h with
  | infinity => exact absurd (hinf.mp hc).1 he
  | nan => exact absurd (hnan.mp hc).1 he
  | _ => simp only [val16, hc]

theorem val32_of_finite (he : floatExp f ≠ 255) : val32 f = .finite (finite32 f) := by
  obtain ⟨-, -, -, hinf, hnan⟩ := classesAreTheirConditions.2 f
  cases hc : floatClass f with
  | infinity => exact absurd (hinf.mp hc).1 he
  | nan => exact absurd (hnan.mp hc).1 he
  | _ => simp only [val32, hc]

theorem val16_of_infinity (hc : halfClass h = .infinity) :
    val16 h = .infinity (halfSign h == 1) := by
  simp only [val16, hc]

theorem val32_of_infinity (hc : floatClass f = .infinity) :
    val32 f = .infinity (floatSign f == 1) := by
  simp only [val32, hc]

/-- The number of a float that is neither zero nor subnormal, by its 24-bit significand. -/
theorem finite32_of_significand (he : floatExp f ≠ 0) : finite32 f =
    signFactor (floatSign f) * 2 ^ ((floatExp f).toNat - 150 : ℤ) *
      ((floatMant f).toNat + 2 ^ 23 : ℕ) := by
  have hexp : ((floatExp f).toNat - 150 : ℤ) = (floatExp f).toNat - 127 - 23 := by ring
  rw [finite32, if_neg he, hexp, zpow_sub₀ (by norm_num : (2 : ℚ) ≠ 0) _ 23]
  push_cast
  ring

theorem finite16_of_exp_zero (he : halfExp h = 0) :
    finite16 h = signFactor (halfSign h) * (2 ^ (-24 : ℤ) * (halfMant h).toNat) := by
  rw [finite16, if_pos he]
  norm_num
  ring

theorem finite32_expand_of_subnormal (he : halfExp h = 0) (hm : halfMant h ≠ 0) :
    finite32 (expand h) = finite16 h := by
  have hp := msb_le_of_lt (halfMant h).isLt
  have hexp := floatExp_expand_of_subnormal he hm
  have hne : floatExp (expand h) ≠ 0 := fun hzero => by simp [hzero] at hexp
  rw [finite32_of_significand hne, finite16_of_exp_zero he, floatSign_expand, hexp,
    floatMant_expand_add_of_subnormal he hm]
  have hscale : ((msb (halfMant h).toNat + 103 : ℕ) - 150 : ℤ) + (23 - msb (halfMant h).toNat : ℕ) =
      -24 := by omega
  rw [← hscale, zpow_add₀ (by norm_num : (2 : ℚ) ≠ 0), zpow_natCast]
  push_cast
  ring

theorem finite32_expand_of_normal (he : halfExp h ≠ 0) (he' : halfExp h ≠ 31) :
    finite32 (expand h) = finite16 h := by
  have hexp := floatExp_expand_of_normal he he'
  have hne : floatExp (expand h) ≠ 0 := fun hzero => by simp [hzero] at hexp
  have hbias : (((halfExp h).toNat + 112 : ℕ) - 127 : ℤ) = (halfExp h).toNat - 15 := by omega
  rw [finite32, if_neg hne, finite16, if_neg he, floatSign_expand, hexp, hbias,
    floatMant_expand_of_exp_ne_zero he]
  push_cast
  ring

theorem finite32_expand (he : halfExp h ≠ 31) : finite32 (expand h) = finite16 h := by
  by_cases he' : halfExp h = 0
  · by_cases hm : halfMant h = 0
    · have hexp := floatExp_expand_of_zero he' hm
      have hmant := floatMant_expand_of_zero he' hm
      simp [finite32, finite16, he', hm, hexp, hmant]
    · exact finite32_expand_of_subnormal he' hm
  · exact finite32_expand_of_normal he' he

end Sys2Proof.Machine

/-! The class of an expanded half (41_half_to_float.md R111). -/

namespace Sys2Proof.Machine

open Sys2Proof.Proofs

variable {h : Half}

/-- 41 R102: ten leading bits, ten exponents. -/
theorem floatExp_expand_range_of_subnormal (he : halfExp h = 0) (hm : halfMant h ≠ 0) :
    103 ≤ (floatExp (expand h)).toNat ∧ (floatExp (expand h)).toNat ≤ 112 := by
  have hp := msb_le_of_lt (halfMant h).isLt
  rw [floatExp_expand_of_subnormal he hm]
  omega

/-- 41 R105. -/
theorem floatExp_expand_range_of_normal (he : halfExp h ≠ 0) (he' : halfExp h ≠ 31) :
    113 ≤ (floatExp (expand h)).toNat ∧ (floatExp (expand h)).toNat ≤ 142 := by
  obtain ⟨hlow, hhigh⟩ := (normalHalfExp_iff _).mp ⟨he, he'⟩
  rw [floatExp_expand_of_normal he he']
  omega

theorem floatClass_expand_of_zero (he : halfExp h = 0) (hm : halfMant h = 0) :
    floatClass (expand h) = .zero :=
  (classesAreTheirConditions.2 _).1.mpr
    ⟨floatExp_expand_of_zero he hm, floatMant_expand_of_zero he hm⟩

theorem floatClass_expand_of_subnormal (he : halfExp h = 0) (hm : halfMant h ≠ 0) :
    floatClass (expand h) = .normal := by
  obtain ⟨-, -, hnormal, -, -⟩ := classesAreTheirConditions.2 (expand h)
  obtain ⟨hlow, hhigh⟩ := floatExp_expand_range_of_subnormal he hm
  exact hnormal.mpr ⟨by omega, by omega⟩

theorem floatClass_expand_of_normal (he : halfExp h ≠ 0) (he' : halfExp h ≠ 31) :
    floatClass (expand h) = .normal := by
  obtain ⟨-, -, hnormal, -, -⟩ := classesAreTheirConditions.2 (expand h)
  obtain ⟨hlow, hhigh⟩ := floatExp_expand_range_of_normal he he'
  exact hnormal.mpr ⟨by omega, by omega⟩

/-- Widening a mantissa neither makes nor loses a zero, so infinities and NaNs stay apart. -/
theorem floatMant_expand_eq_zero_iff (he : halfExp h ≠ 0) :
    floatMant (expand h) = 0 ↔ halfMant h = 0 := by
  have hmant := floatMant_expand_of_exp_ne_zero he
  rw [← BitVec.toNat_inj, ← BitVec.toNat_inj, hmant]
  simp

theorem floatClass_expand_of_infinity (he : halfExp h = 31) (hm : halfMant h = 0) :
    floatClass (expand h) = .infinity := by
  obtain ⟨-, -, -, hinf, -⟩ := classesAreTheirConditions.2 (expand h)
  have hne : halfExp h ≠ 0 := by simp [he]
  exact hinf.mpr ⟨floatExp_expand_of_special he, (floatMant_expand_eq_zero_iff hne).mpr hm⟩

theorem floatClass_expand_of_nan (he : halfExp h = 31) (hm : halfMant h ≠ 0) :
    floatClass (expand h) = .nan := by
  obtain ⟨-, -, -, -, hnan⟩ := classesAreTheirConditions.2 (expand h)
  have hne : halfExp h ≠ 0 := by simp [he]
  exact hnan.mpr ⟨floatExp_expand_of_special he, mt (floatMant_expand_eq_zero_iff hne).mp hm⟩

/-- Only the exponent of infinities and NaNs expands to all ones. -/
theorem floatExp_expand_eq_top_iff : floatExp (expand h) = 255 ↔ halfExp h = 31 := by
  refine ⟨fun htop => ?_, floatExp_expand_of_special⟩
  have htop' : (floatExp (expand h)).toNat = 255 := by rw [htop]; rfl
  by_contra hne
  by_cases he : halfExp h = 0
  · by_cases hm : halfMant h = 0
    · rw [floatExp_expand_of_zero he hm] at htop
      exact absurd htop (by decide)
    · obtain ⟨-, hhigh⟩ := floatExp_expand_range_of_subnormal he hm
      omega
  · obtain ⟨-, hhigh⟩ := floatExp_expand_range_of_normal he hne
    omega

/-- 41 R109 for the finite halves. -/
theorem val32_expand_of_finite (he : halfExp h ≠ 31) : val32 (expand h) = val16 h := by
  rw [val32_of_finite (mt floatExp_expand_eq_top_iff.mp he), finite32_expand he, val16_of_finite he]

end Sys2Proof.Machine

/-! An expanded half gives its half back, field by field (41_half_to_float.md R111, R112). -/

namespace Sys2Proof.Machine

variable {h g : Half}

/-- A half is its three fields side by side (40 R80). -/
theorem half_toNat_eq_fields (h : Half) :
    h.toNat = (halfSign h).toNat * 2 ^ 15 + (halfExp h).toNat * 2 ^ 10 + (halfMant h).toNat := by
  have := h.isLt
  simp only [halfSign, halfExp, halfMant, BitVec.extractLsb'_toNat, Nat.shiftRight_eq_div_pow]
  omega

theorem half_ext (hs : halfSign h = halfSign g) (he : halfExp h = halfExp g)
    (hm : halfMant h = halfMant g) : h = g := by
  apply BitVec.eq_of_toNat_eq
  rw [half_toNat_eq_fields h, half_toNat_eq_fields g, hs, he, hm]

/-- The exponent of a half from the one it expands to. Subtraction stops at 0, which every zero and
subnormal has. -/
theorem halfExp_toNat_of_expand (h : Half) : (halfExp h).toNat =
    if floatExp (expand h) = 255 then 31 else (floatExp (expand h)).toNat - 112 := by
  split
  case isTrue htop => rw [floatExp_expand_eq_top_iff.mp htop]; rfl
  case isFalse hne =>
    have he' := mt floatExp_expand_eq_top_iff.mpr hne
    by_cases he : halfExp h = 0
    · by_cases hm : halfMant h = 0
      · rw [floatExp_expand_of_zero he hm, he]; rfl
      · obtain ⟨-, hhigh⟩ := floatExp_expand_range_of_subnormal he hm
        rw [he, Nat.sub_eq_zero_of_le hhigh]; rfl
    · rw [floatExp_expand_of_normal he he']
      omega

/-- The mantissa of a half from the fields it expands to: the inverse of the renormalisation for a
subnormal, and of the widening for the rest. -/
theorem halfMant_toNat_of_expand (h : Half) : (halfMant h).toNat =
    if halfExp h = 0 then
      ((floatMant (expand h)).toNat + 2 ^ 23) / 2 ^ (126 - (floatExp (expand h)).toNat)
    else (floatMant (expand h)).toNat / 2 ^ 13 := by
  split
  case isTrue he =>
    by_cases hm : halfMant h = 0
    · rw [floatExp_expand_of_zero he hm, floatMant_expand_of_zero he hm, hm]
      rfl
    · have hp := msb_le_of_lt (halfMant h).isLt
      have hshift : 126 - (msb (halfMant h).toNat + 103) = 23 - msb (halfMant h).toNat := by omega
      rw [floatMant_expand_add_of_subnormal he hm, floatExp_expand_of_subnormal he hm, hshift,
        Nat.mul_div_cancel _ (by positivity)]
  case isFalse he =>
    rw [floatMant_expand_of_exp_ne_zero he, Nat.mul_div_cancel _ (by norm_num)]

/-- 41 R111. -/
theorem expand_injective : Function.Injective expand := by
  intro h g heq
  have hexp : halfExp h = halfExp g := by
    apply BitVec.eq_of_toNat_eq
    rw [halfExp_toNat_of_expand h, halfExp_toNat_of_expand g, heq]
  have hmant : halfMant h = halfMant g := by
    apply BitVec.eq_of_toNat_eq
    rw [halfMant_toNat_of_expand h, halfMant_toNat_of_expand g, heq, hexp]
  have hsign : halfSign h = halfSign g := by
    rw [← floatSign_expand h, ← floatSign_expand g, heq]
  exact half_ext hsign hexp hmant

/-- 41 R112: the low 13 bits of the mantissa are zero. -/
theorem floatMant_expand_low (h : Half) : (floatMant (expand h)).toNat % 2 ^ 13 = 0 := by
  by_cases he : halfExp h = 0
  · by_cases hm : halfMant h = 0
    · rw [floatMant_expand_of_zero he hm]; rfl
    · rw [floatMant_expand_of_subnormal he hm,
        renormalised_eq_shifted (msb_le_of_lt (halfMant h).isLt), Nat.mul_mod_left]
  · rw [floatMant_expand_of_exp_ne_zero he, Nat.mul_mod_left]

theorem floatMant_toNat (f : Word) : (floatMant f).toNat = f.toNat % 2 ^ 23 := by
  rw [floatMant, BitVec.extractLsb'_toNat, Nat.shiftRight_zero]

/-- Bit 31 of a float and bit 15 of a half are their signs. -/
theorem getLsbD_eq_of_sign (h : Half) (f : Word) (hs : floatSign f = halfSign h) :
    f.getLsbD 31 = h.getLsbD 15 := by
  simpa [floatSign, halfSign] using congrArg (·.getLsbD 0) hs

end Sys2Proof.Machine

/-! The converter's edges (41_half_to_float.md R107, R108). -/

namespace Sys2Proof.Machine

theorem lowHalf_eq_ofNat (a : Word) : lowHalf a = BitVec.ofNat 16 a.toNat := by
  apply BitVec.eq_of_toNat_eq
  rw [lowHalf_toNat, BitVec.toNat_ofNat]

/-- 41 R110 on the edge: whichever way the build has the table. -/
theorem exec_h2fLut (a : Word) (s : State) : exec (.h2fLut a) s = exec (.h2f a) s := by
  change Host.Outcome.next (s.respond (yH2fLut s.params.tableImpl a)) = .next (s.respond (yH2f a))
  rw [yH2fLut_eq_yH2f]

end Sys2Proof.Machine

/-! The statements about half to float (41_half_to_float.md). -/

namespace Sys2Proof.Proofs

open Sys2Proof.Machine Sys2Proof.Claims

/-- Settles O18: a finite half and its float have one number, and the infinities have their sign. -/
theorem expandIsExact : Obligations.ExpandIsExact := by
  unfold Obligations.ExpandIsExact
  intro h hnan
  refine ⟨?_, floatSign_expand h⟩
  obtain ⟨-, -, -, hinf, hnan'⟩ := classesAreTheirConditions.1 h
  by_cases he : halfExp h = 31
  · have hm : halfMant h = 0 := by
      by_contra hm
      exact hnan (hnan'.mpr ⟨he, hm⟩)
    rw [val32_of_infinity (floatClass_expand_of_infinity he hm), floatSign_expand,
      val16_of_infinity (hinf.mpr ⟨he, hm⟩)]
  · exact val32_expand_of_finite he

/-- Settles O13: the edge responds with the low half of the operand, expanded. -/
theorem halfToFloatAnswersExpand : Obligations.HalfToFloatAnswersExpand := by
  unfold Obligations.HalfToFloatAnswersExpand
  refine ⟨decode_request 0x4#4, by decide, fun s a hs => ?_⟩
  rw [← lowHalf_eq_ofNat]
  exact answersWith_of_respond hs rfl

/-- Settles O14: with the table or without, the edge responds as the one of `H2F` does. -/
theorem expansionTableAnswersAsTheDirectPath :
    Obligations.ExpansionTableAnswersAsTheDirectPath := by
  unfold Obligations.ExpansionTableAnswersAsTheDirectPath
  refine ⟨decode_request 0x5#4, fun s a hs => ?_, fun h => rfl, fun s a _ => exec_h2fLut a s⟩
  rw [← lowHalf_eq_ofNat]
  exact answersWith_of_respond hs (exec_h2fLut a s)

/-- Settles O15: the fields of each of the three classes. -/
theorem expandZerosInfinitiesAndNans : Obligations.ExpandZerosInfinitiesAndNans := by
  unfold Obligations.ExpandZerosInfinitiesAndNans
  intro h
  refine ⟨fun he hm => ⟨floatSign_expand h, ?_, ?_⟩, fun he hm => ⟨floatSign_expand h, ?_, ?_⟩,
    fun he hm => ⟨floatSign_expand h, ?_, ?_, ?_⟩⟩
  · exact floatExp_expand_of_zero he hm
  · exact floatMant_expand_of_zero he hm
  · exact floatExp_expand_of_special he
  · exact (floatMant_expand_eq_zero_iff (by simp [he])).mpr hm
  · exact floatExp_expand_of_special he
  · exact floatMant_expand_of_exp_ne_zero (by simp [he])
  · exact floatClass_expand_of_nan he hm

/-- Settles O16: the document's shift count is the distance of the highest set bit from bit 10. -/
theorem expandRenormalisesSubnormals : Obligations.ExpandRenormalisesSubnormals := by
  unfold Obligations.ExpandRenormalisesSubnormals
  intro h he hm
  have hp := msb_le_of_lt (halfMant h).isLt
  have hm' : (halfMant h).toNat ≠ 0 := BitVec.toNat_ne_iff_ne.mpr hm
  obtain ⟨hlow, hhigh⟩ := msb_bounds hm'
  refine ⟨floatClass_expand_of_subnormal he hm, val32_expand_of_finite (by simp [he]),
    10 - msb (halfMant h).toNat, by omega, by omega, ?_, ?_, floatSign_expand h, ?_, ?_⟩
  · rwa [Nat.sub_sub_self (by omega)]
  · rwa [show 11 - (10 - msb (halfMant h).toNat) = msb (halfMant h).toNat + 1 by omega]
  · rw [floatExp_expand_of_subnormal he hm]
    omega
  · rw [floatMant_expand_of_subnormal he hm, renormalised_eq_shifted hp]

/-- Settles O17: the fields of a normal half. -/
theorem expandRebiasesNormals : Obligations.ExpandRebiasesNormals := by
  unfold Obligations.ExpandRebiasesNormals
  intro h hlow hhigh
  obtain ⟨he, he'⟩ := (normalHalfExp_iff _).mpr ⟨hlow, hhigh⟩
  exact ⟨floatSign_expand h, floatExp_expand_of_normal he he', floatMant_expand_of_exp_ne_zero he⟩

/-- Settles O19: each class has its fields, and the fields of the float give those of the half back. -/
theorem expandMapsClassesInjectively : Obligations.ExpandMapsClassesInjectively := by
  unfold Obligations.ExpandMapsClassesInjectively
  refine ⟨fun h => ?_, expand_injective⟩
  obtain ⟨hzero, hsubnormal, hnormal, hinf, hnan⟩ := classesAreTheirConditions.1 h
  rw [hzero, hsubnormal, hnormal, hinf, hnan, ← normalHalfExp_iff]
  refine ⟨getLsbD_eq_of_sign _ _ (floatSign_expand h), ?_, ?_, ?_, ?_, ?_⟩ <;> rintro ⟨he, hm⟩
  · exact floatClass_expand_of_zero he hm
  · exact ⟨floatClass_expand_of_subnormal he hm, floatExp_expand_range_of_subnormal he hm⟩
  · exact ⟨floatClass_expand_of_normal he hm, floatExp_expand_range_of_normal he hm⟩
  · exact floatClass_expand_of_infinity he hm
  · exact floatClass_expand_of_nan he hm

/-- Settles O20: both parts are about the float's mantissa field, the low 23 bits of the word. -/
theorem expandLeavesLowBitsZero : Obligations.ExpandLeavesLowBitsZero := by
  unfold Obligations.ExpandLeavesLowBitsZero
  intro h
  have hmant := floatMant_toNat (expand h)
  constructor
  · have hlow := floatMant_expand_low h
    omega
  · intro he
    have hwide := floatMant_expand_of_exp_ne_zero he
    omega

end Sys2Proof.Proofs

/-! Rounding a number at a bit, ties to even (42_float_to_half.md R122, R125). -/

namespace Sys2Proof.Machine

open Sys2Proof.Claims

/-- `N` without its low `t` bits, rounded to nearest, a tie to the even. -/
def roundAt (N t : Nat) : Nat := nearestEven (N / 2 ^ t) (N % 2 ^ t) (2 ^ (t - 1))

theorem nearestEven_cases (q rem half : Nat) :
    (nearestEven q rem half = q + 1 ∧ half ≤ rem ∧ (rem = half → q % 2 = 1)) ∨
    (nearestEven q rem half = q ∧ rem ≤ half ∧ (rem = half → q % 2 = 0)) := by
  unfold nearestEven
  split
  · exact .inl ⟨rfl, by omega, by omega⟩
  · exact .inr ⟨rfl, by omega, by omega⟩

theorem nearestEven_add_of_even {c : Nat} (hc : c % 2 = 0) (q rem half : Nat) :
    nearestEven (c + q) rem half = c + nearestEven q rem half := by
  unfold nearestEven
  split <;> split <;> omega

/-- The half of a power of two that the rounding compares with. -/
theorem two_pow_eq_double {t : Nat} (ht : 1 ≤ t) : 2 ^ t = 2 * 2 ^ (t - 1) := by
  rw [← pow_succ', Nat.sub_add_cancel ht]

/-- The rules' rounding add: half of the last kept bit less one, and one more where that bit is set,
carries into the kept bits `q` exactly where `nearestEven` goes up. -/
theorem roundingAdd_div {q rem half : Nat} (hrem : rem < 2 * half) :
    (2 * half * q + (rem + (half - 1) + q % 2)) / (2 * half) = nearestEven q rem half := by
  rw [Nat.mul_add_div (by omega)]
  obtain ⟨hround, hge, htie⟩ | ⟨hround, hle, htie⟩ := nearestEven_cases q rem half
  · rw [hround, Nat.div_eq_of_lt_le (k := 1) (by omega) (by omega)]
  · rw [hround, Nat.div_eq_of_lt (by omega), Nat.add_zero]

/-- The rounding add of 42 R122 and R125, and the shift after it. -/
theorem roundingSum_shift_eq_roundAt {N t : Nat} (ht : 1 ≤ t) :
    (N + (2 ^ (t - 1) - 1) + ((N >>> t) &&& 1)) >>> t = roundAt N t := by
  have hrem : N % 2 ^ t < 2 ^ t := Nat.mod_lt _ (by positivity)
  have hsplit : N + (2 ^ (t - 1) - 1) + N / 2 ^ t % 2 =
      2 ^ t * (N / 2 ^ t) + (N % 2 ^ t + (2 ^ (t - 1) - 1) + N / 2 ^ t % 2) := by
    rw [← Nat.add_assoc, ← Nat.add_assoc, Nat.div_add_mod]
  rw [Nat.shiftRight_eq_div_pow, Nat.shiftRight_eq_div_pow, Nat.and_one_is_mod, hsplit, roundAt]
  rw [two_pow_eq_double ht] at hrem ⊢
  exact roundingAdd_div hrem

theorem div_le_roundAt (N t : Nat) : N / 2 ^ t ≤ roundAt N t := by
  rw [roundAt, nearestEven]
  split <;> omega

theorem roundAt_le (N t : Nat) : roundAt N t ≤ N / 2 ^ t + 1 := by
  rw [roundAt, nearestEven]
  split <;> omega

/-- What has no low bits is not rounded. -/
theorem roundAt_mul_two_pow (k t : Nat) : roundAt (k * 2 ^ t) t = k := by
  have hhalf : 0 < 2 ^ (t - 1) := by positivity
  rw [roundAt, Nat.mul_div_cancel _ (by positivity), Nat.mul_mod_left, nearestEven,
    if_neg (by omega)]

/-- Zero comes of what is at most half of the last kept bit: 0 is even. -/
theorem roundAt_eq_zero_iff {N t : Nat} (ht : 1 ≤ t) : roundAt N t = 0 ↔ N ≤ 2 ^ (t - 1) := by
  have hdouble := two_pow_eq_double ht
  have hhalf : 0 < 2 ^ (t - 1) := by positivity
  by_cases hlt : N < 2 ^ t
  · rw [roundAt, Nat.div_eq_of_lt hlt, Nat.mod_eq_of_lt hlt, nearestEven]
    split <;> omega
  · have hpos : 0 < N / 2 ^ t := Nat.div_pos (by omega) (by positivity)
    have := div_le_roundAt N t
    omega

/-- A 24-bit significand without 14 bits or more has ten bits, or carries to `2^10`. -/
theorem roundAt_le_of_subnormal {N t : Nat} (hN : N < 2 ^ 24) (ht : 14 ≤ t) :
    roundAt N t ≤ 2 ^ 10 := by
  have hlt : N / 2 ^ t < 2 ^ 10 := calc
    N / 2 ^ t ≤ N / 2 ^ 14 := Nat.div_le_div_left (Nat.pow_le_pow_right (by omega) ht) (by omega)
    _ < 2 ^ 10 := by omega
  have := roundAt_le N t
  omega

theorem roundSum_div_eq_roundAt (M : Nat) : roundSum M / 2 ^ 13 = roundAt M 13 := by
  rw [← Nat.shiftRight_eq_div_pow]
  exact roundingSum_shift_eq_roundAt (t := 13) (by norm_num)

/-- The implicit leading 1 stands above the mantissa (42 R122). -/
theorem leadingOne_or {M : Nat} (hM : M < 2 ^ 23) : M ||| 0x800000 = M + 2 ^ 23 := by
  rw [Nat.or_comm, Nat.add_comm, show 0x800000 = 2 ^ 23 * 1 by norm_num,
    ← Nat.two_pow_add_eq_or_of_lt hM, Nat.mul_one]

theorem roundSubnormal_eq_roundAt {M t : Nat} (hM : M < 2 ^ 23) (ht : 1 ≤ t) :
    roundSubnormal M t = roundAt (M + 2 ^ 23) t := by
  rw [roundSubnormal, leadingOne_or hM, roundingSum_shift_eq_roundAt ht]

/-- The leading 1 stands above the ten kept bits of a normal result, and is even there. -/
theorem roundAt_leadingOne (M : Nat) : roundAt (M + 2 ^ 23) 13 = 2 ^ 10 + roundAt M 13 := by
  have hq : (M + 2 ^ 23) / 2 ^ 13 = 2 ^ 10 + M / 2 ^ 13 := by omega
  have hrem : (M + 2 ^ 23) % 2 ^ 13 = M % 2 ^ 13 := by omega
  rw [roundAt, hq, hrem, nearestEven_add_of_even (by norm_num), roundAt]

end Sys2Proof.Machine

/-! The direct path in one formula: the sign, and below it a 15-bit magnitude of the float's exponent
and mantissa (42_float_to_half.md R121 to R127). -/

namespace Sys2Proof.Machine

open Sys2Proof.Claims

/-- The mantissa with its leading 1, which zeros and subnormals lack (40 R84). -/
def significand (E M : Nat) : Nat := if E = 0 then M else M + 2 ^ 23

/-- The bits the rounding drops: 13 of a normal result, and one more for each exponent below its
least (42 R122, R125). A subnormal float has the exponent of `E = 1`. -/
def droppedBits (E : Nat) : Nat := 13 + (113 - max E 1)

/-- The significand, rounded, on top of the exponents passed by; not yet cut off at the infinity. -/
def roundedMagnitude (E M : Nat) : Nat :=
  (E - 113) * 2 ^ 10 + roundAt (significand E M) (droppedBits E)

/-- The result below its sign: the mantissa of a NaN is its ten high payload bits or 1, and what rounds
past the largest finite half is the infinity (42 R123, R124, R127). -/
def reducedMagnitude (E M : Nat) : Nat :=
  if E = 255 then 31 * 2 ^ 10 + max (M / 2 ^ 13) (min M 1)
  else min (roundedMagnitude E M) (31 * 2 ^ 10)

section Magnitude

variable {E M : Nat}

theorem significand_lt (hM : M < 2 ^ 23) : significand E M < 2 ^ 24 := by
  rw [significand]
  split <;> omega

theorem significand_of_ne_zero (hE : E ≠ 0) : significand E M = M + 2 ^ 23 := if_neg hE

theorem thirteen_le_droppedBits (E : Nat) : 13 ≤ droppedBits E := Nat.le_add_right _ _

theorem droppedBits_of_normal (hE : 113 ≤ E) : droppedBits E = 13 := by
  rw [droppedBits]
  omega

theorem droppedBits_of_subnormal (hlow : 1 ≤ E) (hhigh : E ≤ 112) : droppedBits E = 126 - E := by
  rw [droppedBits]
  omega

/-- Below the normal results nothing but the rounded significand is left (42 R122). -/
theorem roundedMagnitude_eq_roundAt (hE : E ≤ 112) :
    roundedMagnitude E M = roundAt (significand E M) (droppedBits E) := by
  rw [roundedMagnitude, Nat.sub_eq_zero_of_le (by omega), Nat.zero_mul, Nat.zero_add]

theorem roundedMagnitude_le_of_subnormal (hM : M < 2 ^ 23) (hE : E ≤ 112) :
    roundedMagnitude E M ≤ 2 ^ 10 := by
  rw [roundedMagnitude_eq_roundAt hE]
  exact roundAt_le_of_subnormal (significand_lt hM) (by rw [droppedBits]; omega)

theorem roundedMagnitude_of_subnormal (hlow : 1 ≤ E) (hhigh : E ≤ 112) :
    roundedMagnitude E M = roundAt (M + 2 ^ 23) (126 - E) := by
  rw [roundedMagnitude_eq_roundAt hhigh, significand_of_ne_zero (by omega),
    droppedBits_of_subnormal hlow hhigh]

/-- A normal result: the leading 1 counts as one exponent (42 R125, R126). -/
theorem roundedMagnitude_of_normal (hE : 113 ≤ E) :
    roundedMagnitude E M = (E - 112) * 2 ^ 10 + roundAt M 13 := by
  rw [roundedMagnitude, significand_of_ne_zero (by omega), droppedBits_of_normal hE,
    roundAt_leadingOne]
  omega

/-- Zero comes of `2^-25` and what is below it (42 R121, R122, R139). -/
theorem roundedMagnitude_eq_zero_iff (hM : M < 2 ^ 23) :
    roundedMagnitude E M = 0 ↔ E ≤ 101 ∨ (E = 102 ∧ M = 0) := by
  by_cases hnormal : 113 ≤ E
  · rw [roundedMagnitude_of_normal hnormal]
    omega
  have hdropped := thirteen_le_droppedBits E
  rw [roundedMagnitude_eq_roundAt (by omega), roundAt_eq_zero_iff (by omega)]
  by_cases hsmall : E ≤ 101
  · have hN := significand_lt (E := E) hM
    have hpow : 2 ^ 24 ≤ 2 ^ (droppedBits E - 1) :=
      Nat.pow_le_pow_right (by omega) (by rw [droppedBits]; omega)
    omega
  rw [significand_of_ne_zero (by omega), droppedBits_of_subnormal (by omega) (by omega)]
  by_cases h102 : E = 102
  · subst h102
    norm_num
  · have hpow : 2 ^ (126 - E - 1) ≤ 2 ^ 22 := Nat.pow_le_pow_right (by omega) (by omega)
    omega

/-- The rounding carries out of the mantissa from ten ones and a half of the last of them on (42 R126). -/
theorem roundAt_carry_iff (hM : M < 2 ^ 23) : 2 ^ 10 ≤ roundAt M 13 ↔ 0x7FF000 ≤ M := by
  rw [← roundSum_div_eq_roundAt, roundSum, Nat.shiftRight_eq_div_pow, Nat.and_one_is_mod]
  omega

/-- 42 R138: the least float that rounds past the largest finite half. -/
theorem overflow_iff (hM : M < 2 ^ 23) :
    31 * 2 ^ 10 ≤ roundedMagnitude E M ↔ 143 ≤ E ∨ (E = 142 ∧ 0x7FF000 ≤ M) := by
  by_cases hnormal : 113 ≤ E
  · have hcarry := roundAt_carry_iff hM
    have hround := roundAt_le M 13
    rw [roundedMagnitude_of_normal hnormal]
    omega
  · have hle := roundedMagnitude_le_of_subnormal (E := E) hM (by omega)
    omega

theorem reducedMagnitude_of_finite (hE : E ≠ 255) :
    reducedMagnitude E M = min (roundedMagnitude E M) (31 * 2 ^ 10) := if_neg hE

theorem reducedMagnitude_of_special :
    reducedMagnitude 255 M = 31 * 2 ^ 10 + max (M / 2 ^ 13) (min M 1) := if_pos rfl

theorem reducedMagnitude_lt (hM : M < 2 ^ 23) : reducedMagnitude E M < 2 ^ 15 := by
  rw [reducedMagnitude]
  split <;> omega

end Magnitude

section Direct

variable {A : Word}

theorem reduceDirect_toNat_of_underflow (hE : (floatExp A).toNat ≤ 101) :
    (reduceDirect A).toNat = (floatSign A).toNat * 2 ^ 15 := by
  simp only [reduceDirect]
  rw [if_pos (by rw [reduceExp]; omega), if_pos (by rw [reduceExp]; omega), reduceSign,
    signInPlace_toNat]

theorem reduceDirect_toNat_of_subnormal (hlow : 102 ≤ (floatExp A).toNat)
    (hhigh : (floatExp A).toNat ≤ 112) :
    (reduceDirect A).toNat = (floatSign A).toNat * 2 ^ 15 +
      roundAt ((floatMant A).toNat + 2 ^ 23) (126 - (floatExp A).toNat) := by
  have hM := (floatMant A).isLt
  have hround := roundAt_le_of_subnormal (N := (floatMant A).toNat + 2 ^ 23) (by omega)
    (show 14 ≤ 126 - (floatExp A).toNat by omega)
  have hshift : (14 - reduceExp A).toNat = 126 - (floatExp A).toNat := by
    rw [reduceExp]
    omega
  simp only [reduceDirect, hshift]
  rw [if_pos (by rw [reduceExp]; omega), if_neg (by rw [reduceExp]; omega),
    roundSubnormal_eq_roundAt hM (by omega), reduceSign, signInPlace_or_toNat _ (by omega)]

/-- The exponent of all ones, and a mantissa under it. -/
theorem signInPlace_or_special_toNat (s : BitVec 1) {m : Nat} (hm : m < 2 ^ 10) :
    (signInPlace s ||| 0x7C00#16 ||| BitVec.ofNat 16 m).toNat =
      s.toNat * 2 ^ 15 + (31 * 2 ^ 10 + m) := by
  have hor : 0x7C00#16 ||| BitVec.ofNat 16 m = BitVec.ofNat 16 (31 * 2 ^ 10 + m) := by
    apply BitVec.eq_of_toNat_eq
    rw [BitVec.toNat_or, BitVec.toNat_ofNat, BitVec.toNat_ofNat, BitVec.toNat_ofNat,
      Nat.mod_eq_of_lt (by omega), Nat.mod_eq_of_lt (by omega), Nat.mod_eq_of_lt (by omega),
      Nat.mul_comm 31, Nat.two_pow_add_eq_or_of_lt hm]
  rw [BitVec.or_assoc, hor, signInPlace_or_toNat _ (by omega)]

theorem nanMantissa_eq {M : Nat} (hM : M ≠ 0) :
    nanMantissa M = BitVec.ofNat 16 (max (M / 2 ^ 13) (min M 1)) := by
  simp only [nanMantissa, Nat.shiftRight_eq_div_pow]
  split
  case isTrue hzero => rw [hzero, show max 0 (min M 1) = 1 by omega]; rfl
  case isFalse hne => rw [show max (M / 2 ^ 13) (min M 1) = M / 2 ^ 13 by omega, BitVec.or_zero]

theorem reduceDirect_toNat_of_special (hE : (floatExp A).toNat = 255) :
    (reduceDirect A).toNat = (floatSign A).toNat * 2 ^ 15 +
      (31 * 2 ^ 10 + max ((floatMant A).toNat / 2 ^ 13) (min (floatMant A).toNat 1)) := by
  have hM := (floatMant A).isLt
  simp only [reduceDirect, reduceSign]
  rw [if_neg (by rw [reduceExp]; omega), if_pos hE]
  split
  case isTrue hzero => rw [hzero]; exact signInPlace_or_toNat _ (by norm_num)
  case isFalse hne => rw [nanMantissa_eq hne, signInPlace_or_special_toNat _ (by omega)]

/-- 42 R127: the infinity from exponent 31 on. -/
theorem packOrOverflow_toNat_of_overflow (s : BitVec 1) {e : Int} (he : 30 < e) (r : Nat) :
    (packOrOverflow (signInPlace s) e r).toNat = s.toNat * 2 ^ 15 + 31 * 2 ^ 10 := by
  rw [packOrOverflow, if_pos he]
  exact signInPlace_or_toNat s (by norm_num)

/-- The results with `E = 142` and more, which the dispatch leaves to the direct path. -/
theorem reduceDirect_toNat_of_large (hlow : 142 ≤ (floatExp A).toNat)
    (hhigh : (floatExp A).toNat ≤ 254) :
    (reduceDirect A).toNat = (floatSign A).toNat * 2 ^ 15 +
      min (((floatExp A).toNat - 112) * 2 ^ 10 + roundSum (floatMant A).toNat / 2 ^ 13)
        (31 * 2 ^ 10) := by
  have hr := roundSum_lt (floatMant A).isLt
  have hcarry := carry_iff (r := roundSum (floatMant A).toNat) (by omega)
  simp only [reduceDirect, reduceSign]
  rw [if_neg (by rw [reduceExp]; omega), if_neg (by omega)]
  split
  case isTrue hset =>
    have hle := hcarry.mp hset
    rw [packOrOverflow_toNat_of_overflow _ (by rw [reduceExp]; omega)]
    omega
  case isFalse hclear =>
    have hnot := mt hcarry.mpr hclear
    by_cases hover : 143 ≤ (floatExp A).toNat
    · rw [packOrOverflow_toNat_of_overflow _ (by rw [reduceExp]; omega)]
      omega
    · have hexp : reduceExp A = (30 : Nat) := by
        rw [reduceExp]
        omega
      rw [hexp, packOrOverflow_toNat _ (by omega) (by omega)]
      omega

/-- The direct path on every operand. -/
theorem reduceDirect_toNat (A : Word) : (reduceDirect A).toNat =
    (floatSign A).toNat * 2 ^ 15 + reducedMagnitude (floatExp A).toNat (floatMant A).toNat := by
  have hM := (floatMant A).isLt
  have hE := (floatExp A).isLt
  have hr := roundSum_lt hM
  by_cases hspecial : (floatExp A).toNat = 255
  · rw [reduceDirect_toNat_of_special hspecial, hspecial, reducedMagnitude_of_special]
  rw [reducedMagnitude_of_finite hspecial]
  by_cases hnormal : 113 ≤ (floatExp A).toNat
  · rw [roundedMagnitude_of_normal hnormal, ← roundSum_div_eq_roundAt]
    by_cases hlarge : 142 ≤ (floatExp A).toNat
    · exact reduceDirect_toNat_of_large hlarge (by omega)
    · rw [reduceDirect_toNat_of_dispatched hnormal (by omega)]
      omega
  · have hle := roundedMagnitude_le_of_subnormal (E := (floatExp A).toNat) hM (by omega)
    rw [Nat.min_eq_left (by omega)]
    by_cases hsmall : (floatExp A).toNat ≤ 101
    · rw [reduceDirect_toNat_of_underflow hsmall,
        (roundedMagnitude_eq_zero_iff hM).mpr (.inl hsmall), Nat.add_zero]
    · rw [reduceDirect_toNat_of_subnormal (by omega) (by omega),
        roundedMagnitude_of_subnormal (by omega) (by omega)]

end Direct

end Sys2Proof.Machine

/-! The value of a half's magnitude, and the rounding by it: the magnitude next to a number, the even one
of two as near (42_float_to_half.md R137). -/

namespace Sys2Proof.Machine

/-- `n` is the index whose value is nearest to `x`, and even where another one is as near. -/
def RoundsTo (value : Nat → ℚ) (x : ℚ) (n : Nat) : Prop :=
  ∀ m, |value n - x| ≤ |value m - x| ∧
    (m ≠ n → |value n - x| = |value m - x| → n % 2 = 0)

section RoundsTo

variable {value : Nat → ℚ} {x : ℚ} {n q : Nat}

/-- The nearer end of the interval `x` lies in is the nearest value: every other value lies beyond one of
the ends. -/
theorem roundsTo_of_between (hmono : StrictMono value) (hlow : value q ≤ x) (hhigh : x ≤ value (q + 1))
    (hnear : (n = q ∧ x - value q ≤ value (q + 1) - x) ∨
      (n = q + 1 ∧ value (q + 1) - x ≤ x - value q))
    (heven : x - value q = value (q + 1) - x → n % 2 = 0) : RoundsTo value x n := by
  intro m
  have hn : |value n - x| ≤ x - value q ∧ |value n - x| ≤ value (q + 1) - x := by
    obtain ⟨rfl, hle⟩ | ⟨rfl, hle⟩ := hnear
    · rw [abs_of_nonpos (by linarith)]
      exact ⟨by linarith, by linarith⟩
    · rw [abs_of_nonneg (by linarith)]
      exact ⟨by linarith, by linarith⟩
  rcases Nat.lt_or_ge q m with habove | hbelow
  · have hm : value (q + 1) ≤ value m := hmono.monotone habove
    rw [abs_of_nonneg (sub_nonneg.mpr (hhigh.trans hm))]
    refine ⟨by linarith, fun hne htie => ?_⟩
    obtain ⟨rfl, hle⟩ | ⟨rfl, hle⟩ := hnear
    · exact heven (by linarith)
    · have hlt : value (q + 1) < value m := hmono (by omega)
      linarith
  · have hm : value m ≤ value q := hmono.monotone hbelow
    rw [abs_of_nonpos (sub_nonpos.mpr (hm.trans hlow))]
    refine ⟨by linarith, fun hne htie => ?_⟩
    obtain ⟨rfl, hle⟩ | ⟨rfl, hle⟩ := hnear
    · have hlt : value m < value n := hmono (by omega)
      linarith
    · exact heven (by linarith)

/-- Past the middle of an odd `q` and the next index nothing rounds to `q` or below, and before it
everything does. -/
theorem succ_le_iff_of_roundsTo (hmono : StrictMono value) (h : RoundsTo value x n) (hodd : q % 2 = 1) :
    q + 1 ≤ n ↔ value q + value (q + 1) ≤ 2 * x := by
  have hlt : value q < value (q + 1) := hmono q.lt_succ_self
  constructor
  · intro hn
    have hle : value (q + 1) ≤ value n := hmono.monotone hn
    have hnear := (h q).1
    by_contra! hx
    rw [abs_of_nonneg (by linarith)] at hnear
    rcases abs_cases (value q - x) with ⟨habs, -⟩ | ⟨habs, -⟩ <;> linarith
  · intro hx
    by_contra! hn
    have hle : value n ≤ value q := hmono.monotone (by omega)
    obtain ⟨hnear, htie⟩ := h (q + 1)
    rw [abs_of_nonpos (by linarith)] at hnear htie
    have hfar : |value (q + 1) - x| ≤ x - value q := by
      rw [abs_le]
      constructor <;> linarith
    have hq : value n = value q := by linarith
    obtain rfl := hmono.injective hq
    have := htie (by omega) (by linarith)
    omega

end RoundsTo

/-- The number of the half magnitude `n`: exponent and mantissa in one, the `2^10` patterns of an exponent
spaced by its power of two, the subnormals as the first normals are (40 R84). The patterns from
`31 * 2^10` on, which stand for no number, go on as an exponent 31 would. -/
def magnitudeValue (n : Nat) : ℚ :=
  2 ^ (-24 : ℤ) * ((n - (n / 2 ^ 10 - 1) * 2 ^ 10) * 2 ^ (n / 2 ^ 10 - 1) : ℕ)

/-- The significand `k` at the spacing `2^c`; the end of the range is the first of the next. -/
theorem magnitudeValue_block {c k : Nat} (hlow : c = 0 ∨ 2 ^ 10 ≤ k) (hhigh : k ≤ 2 ^ 11) :
    magnitudeValue (c * 2 ^ 10 + k) = 2 ^ (-24 : ℤ) * (k * 2 ^ c) := by
  rw [magnitudeValue]
  by_cases hend : k = 2 ^ 11
  · rw [show (c * 2 ^ 10 + k) / 2 ^ 10 - 1 = c + 1 by omega,
      show c * 2 ^ 10 + k - (c + 1) * 2 ^ 10 = 2 ^ 10 by omega, hend]
    push_cast
    ring
  · rw [show (c * 2 ^ 10 + k) / 2 ^ 10 - 1 = c by omega, Nat.add_sub_cancel_left]
    push_cast
    ring

theorem magnitudeValue_strictMono : StrictMono magnitudeValue := by
  refine strictMono_nat_of_lt_succ fun n => ?_
  obtain ⟨c, k, hn, hlow, hlt⟩ : ∃ c k, n = c * 2 ^ 10 + k ∧ (c = 0 ∨ 2 ^ 10 ≤ k) ∧ k < 2 ^ 11 :=
    ⟨n / 2 ^ 10 - 1, n - (n / 2 ^ 10 - 1) * 2 ^ 10, by omega, by omega, by omega⟩
  rw [hn, Nat.add_assoc, magnitudeValue_block hlow hlt.le, magnitudeValue_block (by omega) hlt]
  gcongr
  exact k.lt_succ_self

/-- A significand `N` before its low `t` bits are dropped, and its two neighbouring magnitudes, in units of
its own last bit. -/
theorem magnitudeValue_around {N t c : Nat} (ht : 1 ≤ t) (hlow : c = 0 ∨ 2 ^ 10 ≤ N / 2 ^ t)
    (hhigh : N / 2 ^ t < 2 ^ 11) :
    ∃ w : ℚ, 0 < w ∧
      2 ^ (-24 : ℤ) * (N / 2 ^ t * 2 ^ c) - magnitudeValue (c * 2 ^ 10 + N / 2 ^ t) =
        w * (N % 2 ^ t : ℕ) ∧
      magnitudeValue (c * 2 ^ 10 + N / 2 ^ t + 1) - 2 ^ (-24 : ℤ) * (N / 2 ^ t * 2 ^ c) =
        w * (2 * (2 ^ (t - 1) : ℕ) - (N % 2 ^ t : ℕ)) := by
  refine ⟨2 ^ (-24 : ℤ) * 2 ^ c / 2 ^ t, by positivity, ?_⟩
  have hN : (N : ℚ) = 2 ^ t * (N / 2 ^ t : ℕ) + (N % 2 ^ t : ℕ) := by
    exact_mod_cast (Nat.div_add_mod N (2 ^ t)).symm
  have hpow : (2 : ℚ) * (2 ^ (t - 1) : ℕ) = 2 ^ t := by exact_mod_cast (two_pow_eq_double ht).symm
  rw [Nat.add_assoc, magnitudeValue_block hlow hhigh.le, magnitudeValue_block (by omega) hhigh, hpow]
  constructor
  · conv_lhs => rw [hN]
    field_simp
    ring
  · conv_lhs => rw [hN]
    push_cast
    field_simp
    ring

/-- Where a rounded significand lies between two neighbouring magnitudes it is the nearest one. -/
theorem roundsTo_roundAt {N t c : Nat} (ht : 1 ≤ t) (hlow : c = 0 ∨ 2 ^ 10 ≤ N / 2 ^ t)
    (hhigh : N / 2 ^ t < 2 ^ 11) :
    RoundsTo magnitudeValue (2 ^ (-24 : ℤ) * (N / 2 ^ t * 2 ^ c)) (c * 2 ^ 10 + roundAt N t) := by
  obtain ⟨w, hw, hbelow, habove⟩ := magnitudeValue_around ht hlow hhigh
  have hrem : N % 2 ^ t ≤ 2 * 2 ^ (t - 1) := by
    rw [← two_pow_eq_double ht]
    exact (Nat.mod_lt _ (by positivity)).le
  have hrem' : ((N % 2 ^ t : ℕ) : ℚ) ≤ 2 * (2 ^ (t - 1) : ℕ) := by exact_mod_cast hrem
  have hround := nearestEven_cases (N / 2 ^ t) (N % 2 ^ t) (2 ^ (t - 1))
  refine roundsTo_of_between (q := c * 2 ^ 10 + N / 2 ^ t) magnitudeValue_strictMono ?_ ?_ ?_ ?_
  · exact sub_nonneg.mp (hbelow ▸ mul_nonneg hw.le (Nat.cast_nonneg _))
  · exact sub_nonneg.mp (habove ▸ mul_nonneg hw.le (sub_nonneg.mpr hrem'))
  · rw [hbelow, habove, mul_le_mul_iff_right₀ hw, mul_le_mul_iff_right₀ hw, roundAt]
    obtain ⟨hup, hge, -⟩ | ⟨hdown, hle, -⟩ := hround
    · have hge' : ((2 ^ (t - 1) : ℕ) : ℚ) ≤ (N % 2 ^ t : ℕ) := by exact_mod_cast hge
      exact .inr ⟨by omega, by linarith⟩
    · have hle' : ((N % 2 ^ t : ℕ) : ℚ) ≤ (2 ^ (t - 1) : ℕ) := by exact_mod_cast hle
      exact .inl ⟨by omega, by linarith⟩
  · rw [hbelow, habove, mul_right_inj' hw.ne', roundAt]
    intro hmiddle
    have htie : N % 2 ^ t = 2 ^ (t - 1) := by
      have : ((N % 2 ^ t : ℕ) : ℚ) = (2 ^ (t - 1) : ℕ) := by linarith
      exact_mod_cast this
    obtain ⟨hup, -, hodd⟩ | ⟨hdown, -, heven⟩ := hround
    · have := hodd htie
      omega
    · have := heven htie
      omega

theorem abs_signFactor (s : BitVec 1) : |signFactor s| = 1 := by
  rw [signFactor, abs_pow, abs_neg, abs_one, one_pow]

/-- The number of a finite half is its sign times the number of its magnitude. -/
theorem finite16_eq_magnitudeValue (h : Half) : finite16 h =
    signFactor (halfSign h) *
      magnitudeValue ((halfExp h).toNat * 2 ^ 10 + (halfMant h).toNat) := by
  have hM := (halfMant h).isLt
  by_cases he : halfExp h = 0
  · have hvalue := magnitudeValue_block (c := 0) (k := (halfMant h).toNat) (.inl rfl) (by omega)
    rw [Nat.zero_mul, Nat.zero_add, pow_zero, mul_one] at hvalue
    have he' : (halfExp h).toNat = 0 := by rw [he]; rfl
    rw [finite16_of_exp_zero he, he', Nat.zero_mul, Nat.zero_add, hvalue]
  · have he' : (halfExp h).toNat ≠ 0 := BitVec.toNat_ne_iff_ne.mpr he
    have hsplit : (halfExp h).toNat * 2 ^ 10 + (halfMant h).toNat =
        ((halfExp h).toNat - 1) * 2 ^ 10 + (2 ^ 10 + (halfMant h).toNat) := by omega
    have hscale : ((halfExp h).toNat - 15 : ℤ) = -24 + ((halfExp h).toNat - 1 : ℕ) + 10 := by omega
    rw [hsplit, magnitudeValue_block (by omega) (by omega), finite16, if_neg he, hscale,
      zpow_add₀ two_ne_zero, zpow_add₀ two_ne_zero, zpow_natCast]
    push_cast
    ring

/-- The number of a finite float is its sign times its significand, in units of the last bit that the
rounding keeps, at the spacing of its exponent. -/
theorem finite32_eq_significand (f : Word) : finite32 f =
    signFactor (floatSign f) * (2 ^ (-24 : ℤ) *
      (significand (floatExp f).toNat (floatMant f).toNat / 2 ^ droppedBits (floatExp f).toNat *
        2 ^ ((floatExp f).toNat - 113))) := by
  by_cases he : floatExp f = 0
  · have he' : (floatExp f).toNat = 0 := by rw [he]; rfl
    rw [finite32, if_pos he, he', significand, if_pos rfl, droppedBits]
    norm_num
    ring
  · have he' : (floatExp f).toNat ≠ 0 := BitVec.toNat_ne_iff_ne.mpr he
    have hscale : ((floatExp f).toNat - 150 : ℤ) =
        -24 - droppedBits (floatExp f).toNat + ((floatExp f).toNat - 113 : ℕ) := by
      rw [droppedBits]
      omega
    rw [finite32_of_significand he, significand_of_ne_zero he', hscale, zpow_add₀ two_ne_zero,
      zpow_sub₀ two_ne_zero, zpow_natCast, zpow_natCast]
    ring

/-- The absolute value of a finite float rounds to the magnitude of the direct path (42 R137). -/
theorem roundsTo_roundedMagnitude (f : Word) :
    RoundsTo magnitudeValue |finite32 f|
      (roundedMagnitude (floatExp f).toNat (floatMant f).toNat) := by
  have hM := (floatMant f).isLt
  have hN := significand_lt (E := (floatExp f).toNat) hM
  have hdropped := thirteen_le_droppedBits (floatExp f).toNat
  have hdiv : significand (floatExp f).toNat (floatMant f).toNat / 2 ^ droppedBits (floatExp f).toNat ≤
      significand (floatExp f).toNat (floatMant f).toNat / 2 ^ 13 :=
    Nat.div_le_div_left (Nat.pow_le_pow_right (by omega) hdropped) (by omega)
  have hlow : (floatExp f).toNat - 113 = 0 ∨ 2 ^ 10 ≤
      significand (floatExp f).toNat (floatMant f).toNat / 2 ^ droppedBits (floatExp f).toNat := by
    by_cases hE : (floatExp f).toNat ≤ 113
    · exact .inl (by omega)
    · rw [significand_of_ne_zero (by omega), droppedBits_of_normal (by omega)]
      omega
  rw [finite32_eq_significand, abs_mul, abs_signFactor, one_mul, abs_of_nonneg (by positivity)]
  exact roundsTo_roundAt (by omega) hlow (by omega)

end Sys2Proof.Machine

/-! The fields and the class of a narrowed float (42_float_to_half.md R123, R124, R141, R143). -/

namespace Sys2Proof.Machine

open Sys2Proof.Proofs

variable {A : Word}

theorem floatSign_toNat (f : Word) : (floatSign f).toNat = f.toNat / 2 ^ 31 := by
  have := f.isLt
  rw [floatSign, BitVec.extractLsb'_toNat, Nat.shiftRight_eq_div_pow]
  omega

theorem floatExp_toNat (f : Word) : (floatExp f).toNat = f.toNat / 2 ^ 23 % 2 ^ 8 := by
  rw [floatExp, BitVec.extractLsb'_toNat, Nat.shiftRight_eq_div_pow]

/-- The fields of a half put together from a sign and a magnitude. -/
theorem half_fields_of_toNat {h : Half} {s : BitVec 1} {n : Nat} (hn : n < 2 ^ 15)
    (hh : h.toNat = s.toNat * 2 ^ 15 + n) :
    halfSign h = s ∧ (halfExp h).toNat = n / 2 ^ 10 ∧ (halfMant h).toNat = n % 2 ^ 10 := by
  have hfields := half_toNat_eq_fields h
  have hE := (halfExp h).isLt
  have hM := (halfMant h).isLt
  refine ⟨BitVec.eq_of_toNat_eq ?_, ?_, ?_⟩ <;> omega

/-- The fields of every result; the sign is kept (42 R141). -/
theorem reduceDirect_fields (A : Word) :
    halfSign (reduceDirect A) = floatSign A ∧
    (halfExp (reduceDirect A)).toNat =
      reducedMagnitude (floatExp A).toNat (floatMant A).toNat / 2 ^ 10 ∧
    (halfMant (reduceDirect A)).toNat =
      reducedMagnitude (floatExp A).toNat (floatMant A).toNat % 2 ^ 10 :=
  half_fields_of_toNat (reducedMagnitude_lt (floatMant A).isLt) (reduceDirect_toNat A)

/-- 42 R123, R124: infinities and NaNs have the exponent of all ones and the mantissa of R124. -/
theorem reduceDirect_fields_of_special (hE : floatExp A = 255) :
    halfExp (reduceDirect A) = 31 ∧
    (halfMant (reduceDirect A)).toNat =
      max ((floatMant A).toNat / 2 ^ 13) (min (floatMant A).toNat 1) := by
  have hM := (floatMant A).isLt
  have hE' : (floatExp A).toNat = 255 := by rw [hE]; rfl
  obtain ⟨-, hexp, hmant⟩ := reduceDirect_fields A
  rw [hE', reducedMagnitude_of_special] at hexp hmant
  refine ⟨BitVec.eq_of_toNat_eq ?_, ?_⟩
  · rw [hexp]
    change _ = 31
    omega
  · omega

theorem halfClass_reduceDirect_of_nan (hc : floatClass A = .nan) :
    halfClass (reduceDirect A) = .nan := by
  obtain ⟨-, -, -, -, hnan⟩ := classesAreTheirConditions.2 A
  obtain ⟨-, -, -, -, hnan'⟩ := classesAreTheirConditions.1 (reduceDirect A)
  obtain ⟨hE, hM⟩ := hnan.mp hc
  obtain ⟨hexp, hmant⟩ := reduceDirect_fields_of_special hE
  have hM' : (floatMant A).toNat ≠ 0 := BitVec.toNat_ne_iff_ne.mpr hM
  exact hnan'.mpr ⟨hexp, BitVec.toNat_ne_iff_ne.mp (by rw [hmant]; change _ ≠ 0; omega)⟩

theorem halfClass_reduceDirect_of_infinity (hc : floatClass A = .infinity) :
    halfClass (reduceDirect A) = .infinity := by
  obtain ⟨-, -, -, hinf, -⟩ := classesAreTheirConditions.2 A
  obtain ⟨-, -, -, hinf', -⟩ := classesAreTheirConditions.1 (reduceDirect A)
  obtain ⟨hE, hM⟩ := hinf.mp hc
  obtain ⟨hexp, hmant⟩ := reduceDirect_fields_of_special hE
  refine hinf'.mpr ⟨hexp, BitVec.eq_of_toNat_eq ?_⟩
  rw [hmant, hM]
  rfl

/-- Past the largest finite half the result is the infinity. -/
theorem halfClass_reduceDirect_of_overflow (hE : floatExp A ≠ 255)
    (hover : 31 * 2 ^ 10 ≤ roundedMagnitude (floatExp A).toNat (floatMant A).toNat) :
    halfClass (reduceDirect A) = .infinity := by
  obtain ⟨-, -, -, hinf, -⟩ := classesAreTheirConditions.1 (reduceDirect A)
  obtain ⟨-, hexp, hmant⟩ := reduceDirect_fields A
  rw [reducedMagnitude_of_finite (BitVec.toNat_ne_iff_ne.mpr hE), Nat.min_eq_right hover]
    at hexp hmant
  exact hinf.mpr ⟨BitVec.eq_of_toNat_eq hexp, BitVec.eq_of_toNat_eq hmant⟩

/-- Up to the largest finite half the magnitude is the rounded one. -/
theorem reduceDirect_fields_of_finite (hE : floatExp A ≠ 255)
    (hfinite : roundedMagnitude (floatExp A).toNat (floatMant A).toNat < 31 * 2 ^ 10) :
    halfExp (reduceDirect A) ≠ 31 ∧
    (halfExp (reduceDirect A)).toNat * 2 ^ 10 + (halfMant (reduceDirect A)).toNat =
      roundedMagnitude (floatExp A).toNat (floatMant A).toNat := by
  obtain ⟨-, hexp, hmant⟩ := reduceDirect_fields A
  rw [reducedMagnitude_of_finite (BitVec.toNat_ne_iff_ne.mpr hE), Nat.min_eq_left hfinite.le]
    at hexp hmant
  refine ⟨BitVec.toNat_ne_iff_ne.mp ?_, by omega⟩
  rw [hexp]
  change _ ≠ 31
  omega

/-- A result is a NaN for a NaN alone (42 R143). -/
theorem halfClass_reduceDirect_ne_nan (hc : floatClass A ≠ .nan) :
    halfClass (reduceDirect A) ≠ .nan := by
  obtain ⟨-, -, -, hinf, hnan⟩ := classesAreTheirConditions.2 A
  by_cases hE : floatExp A = 255
  · have hM : floatMant A = 0 := by
      by_contra hM
      exact hc (hnan.mpr ⟨hE, hM⟩)
    simp [halfClass_reduceDirect_of_infinity (hinf.mpr ⟨hE, hM⟩)]
  rcases Nat.lt_or_ge (roundedMagnitude (floatExp A).toNat (floatMant A).toNat) (31 * 2 ^ 10)
    with hfinite | hover
  · obtain ⟨-, -, -, -, hnan'⟩ := classesAreTheirConditions.1 (reduceDirect A)
    obtain ⟨hexp, -⟩ := reduceDirect_fields_of_finite hE hfinite
    exact fun h => hexp (hnan'.mp h).1
  · simp [halfClass_reduceDirect_of_overflow hE hover]

/-- The quiet bit is the top bit of the mantissa (40 R85). -/
theorem halfQuiet_eq_decide (h : Half) : halfQuiet h = decide (2 ^ 9 ≤ (halfMant h).toNat) := by
  have hmsb : halfQuiet h = (halfMant h).msb := by
    simp [halfQuiet, halfMant, BitVec.msb_eq_getLsbD_last]
  rw [hmsb, BitVec.msb_eq_decide]

theorem floatQuiet_eq_decide (f : Word) : floatQuiet f = decide (2 ^ 22 ≤ (floatMant f).toNat) := by
  have hmsb : floatQuiet f = (floatMant f).msb := by
    simp [floatQuiet, floatMant, BitVec.msb_eq_getLsbD_last]
  rw [hmsb, BitVec.msb_eq_decide]

theorem halfQuiet_reduceDirect_of_special (hE : floatExp A = 255) :
    halfQuiet (reduceDirect A) = floatQuiet A := by
  obtain ⟨-, hmant⟩ := reduceDirect_fields_of_special hE
  rw [halfQuiet_eq_decide, floatQuiet_eq_decide, hmant, decide_eq_decide]
  omega

theorem floatQuiet_expand_of_special {h : Half} (he : halfExp h = 31) :
    floatQuiet (expand h) = halfQuiet h := by
  rw [halfQuiet_eq_decide, floatQuiet_eq_decide,
    floatMant_expand_of_exp_ne_zero (by simp [he]), decide_eq_decide]
  omega

end Sys2Proof.Machine

/-! Narrowing what was widened (42_float_to_half.md R140). -/

namespace Sys2Proof.Machine

open Sys2Proof.Proofs

variable {h : Half}

/-- A subnormal half, renormalised and back: the shift of the rounding is the one of the widening. -/
theorem roundedMagnitude_expand_of_subnormal (he : halfExp h = 0) (hm : halfMant h ≠ 0) :
    roundedMagnitude (floatExp (expand h)).toNat (floatMant (expand h)).toNat =
      (halfMant h).toNat := by
  obtain ⟨hlow, hhigh⟩ := floatExp_expand_range_of_subnormal he hm
  rw [roundedMagnitude_of_subnormal (by omega) hhigh, floatMant_expand_add_of_subnormal he hm,
    floatExp_expand_of_subnormal he hm,
    show 126 - (msb (halfMant h).toNat + 103) = 23 - msb (halfMant h).toNat by omega,
    roundAt_mul_two_pow]

theorem roundedMagnitude_expand_of_normal (he : halfExp h ≠ 0) (he' : halfExp h ≠ 31) :
    roundedMagnitude (floatExp (expand h)).toNat (floatMant (expand h)).toNat =
      (halfExp h).toNat * 2 ^ 10 + (halfMant h).toNat := by
  obtain ⟨hlow, -⟩ := floatExp_expand_range_of_normal he he'
  rw [roundedMagnitude_of_normal hlow, floatExp_expand_of_normal he he', Nat.add_sub_cancel,
    floatMant_expand_of_exp_ne_zero he, roundAt_mul_two_pow]

theorem reducedMagnitude_expand (h : Half) :
    reducedMagnitude (floatExp (expand h)).toNat (floatMant (expand h)).toNat =
      (halfExp h).toNat * 2 ^ 10 + (halfMant h).toNat := by
  have hM := (halfMant h).isLt
  by_cases hspecial : halfExp h = 31
  · rw [floatExp_expand_of_special hspecial, floatMant_expand_of_exp_ne_zero (by simp [hspecial]),
      hspecial]
    change reducedMagnitude 255 _ = 31 * 2 ^ 10 + _
    rw [reducedMagnitude_of_special]
    omega
  rw [reducedMagnitude_of_finite
    (BitVec.toNat_ne_iff_ne.mpr (mt floatExp_expand_eq_top_iff.mp hspecial))]
  by_cases he : halfExp h = 0
  · have he' : (halfExp h).toNat = 0 := by rw [he]; rfl
    by_cases hm : halfMant h = 0
    · have hexp : (floatExp (expand h)).toNat = 0 := by rw [floatExp_expand_of_zero he hm]; rfl
      rw [(roundedMagnitude_eq_zero_iff (floatMant (expand h)).isLt).mpr (.inl (by omega)), he, hm]
      rfl
    · rw [roundedMagnitude_expand_of_subnormal he hm]
      omega
  · have hrange := (normalHalfExp_iff _).mp ⟨he, hspecial⟩
    rw [roundedMagnitude_expand_of_normal he hspecial]
    omega

theorem reduceDirect_expand (h : Half) : reduceDirect (expand h) = h := by
  apply BitVec.eq_of_toNat_eq
  rw [reduceDirect_toNat, reducedMagnitude_expand, floatSign_expand, half_toNat_eq_fields h,
    Nat.add_assoc]

end Sys2Proof.Machine

/-! The number of a result (42_float_to_half.md R137). -/

namespace Sys2Proof.Machine

variable {A : Word}

theorem magnitudeValue_nonneg (n : Nat) : 0 ≤ magnitudeValue n := by
  rw [magnitudeValue]
  positivity

theorem abs_finite16 (h : Half) : |finite16 h| =
    magnitudeValue ((halfExp h).toNat * 2 ^ 10 + (halfMant h).toNat) := by
  rw [finite16_eq_magnitudeValue, abs_mul, abs_signFactor, one_mul,
    abs_of_nonneg (magnitudeValue_nonneg _)]

theorem finite32_eq_sign_mul_abs (f : Word) :
    finite32 f = signFactor (floatSign f) * |finite32 f| := by
  conv_rhs =>
    rw [finite32_eq_significand, abs_mul, abs_signFactor, one_mul, abs_of_nonneg (by positivity)]
  exact finite32_eq_significand f

/-- 42 R137: from 65520 on, half of the way from the largest finite half to 2^16, the rounding goes past
the finite halves. -/
theorem overflow_iff_value (f : Word) :
    31 * 2 ^ 10 ≤ roundedMagnitude (floatExp f).toNat (floatMant f).toNat ↔ 65520 ≤ |finite32 f| := by
  have hlast : magnitudeValue (31 * 2 ^ 10 - 1) = 65504 := by norm_num [magnitudeValue]
  have hnext : magnitudeValue (31 * 2 ^ 10 - 1 + 1) = 65536 := by norm_num [magnitudeValue]
  have hiff := succ_le_iff_of_roundsTo (q := 31 * 2 ^ 10 - 1) magnitudeValue_strictMono
    (roundsTo_roundedMagnitude f) (by norm_num)
  rw [hlast, hnext] at hiff
  refine hiff.trans ⟨fun hle => by linarith, fun hle => by linarith⟩

/-- A result of the float's sign is as far from it as the magnitudes are from each other. -/
theorem finite16_reduceDirect_dist (hE : floatExp A ≠ 255)
    (hfinite : roundedMagnitude (floatExp A).toNat (floatMant A).toNat < 31 * 2 ^ 10) :
    |finite16 (reduceDirect A) - finite32 A| =
      |magnitudeValue (roundedMagnitude (floatExp A).toNat (floatMant A).toNat) - (|finite32 A|)| := by
  obtain ⟨hsign, -, -⟩ := reduceDirect_fields A
  obtain ⟨-, hmag⟩ := reduceDirect_fields_of_finite hE hfinite
  rw [finite16_eq_magnitudeValue, hsign, hmag]
  conv_lhs => rw [finite32_eq_sign_mul_abs, ← mul_sub, abs_mul, abs_signFactor, one_mul]

/-- Two numbers of one absolute value are equally far from 0 alone. -/
theorem eq_of_abs_eq_of_dist_eq {a b x : ℚ} (habs : |a| = |b|) (hdist : |a - x| = |b - x|)
    (hx : x ≠ 0) : a = b := by
  rcases abs_eq_abs.mp habs with heq | hneg
  · exact heq
  rcases abs_eq_abs.mp hdist with hsame | hopp
  · linarith
  · exact absurd (by linarith) hx

/-- Nothing but the magnitude 0 rounds from 0. -/
theorem eq_zero_of_roundsTo_zero {n : Nat} (h : RoundsTo magnitudeValue 0 n) : n = 0 := by
  have hzero : magnitudeValue 0 = 0 := by norm_num [magnitudeValue]
  have hnear := (h 0).1
  rw [sub_zero, sub_zero, hzero, abs_zero, abs_nonpos_iff, ← hzero] at hnear
  exact magnitudeValue_strictMono.injective hnear

/-- The nearest magnitude, with the float's sign, is the nearest half: a half of the other sign is farther
still, except from 0. -/
theorem reduceDirect_nearest (hE : floatExp A ≠ 255)
    (hfinite : roundedMagnitude (floatExp A).toNat (floatMant A).toNat < 31 * 2 ^ 10) (g : Half) :
    |finite16 (reduceDirect A) - finite32 A| ≤ |finite16 g - finite32 A| ∧
    (finite16 g ≠ finite16 (reduceDirect A) →
      |finite16 (reduceDirect A) - finite32 A| = |finite16 g - finite32 A| →
      (halfMant (reduceDirect A)).getLsbD 0 = false) := by
  obtain ⟨-, hmag⟩ := reduceDirect_fields_of_finite hE hfinite
  have hround := roundsTo_roundedMagnitude A
  have hdist := finite16_reduceDirect_dist hE hfinite
  have habs := abs_finite16 (reduceDirect A)
  rw [hmag] at habs
  generalize roundedMagnitude (floatExp A).toNat (floatMant A).toNat = n at *
  have hother := abs_abs_sub_abs_le (finite16 g) (finite32 A)
  rw [abs_finite16 g] at hother
  obtain ⟨hnear, htie⟩ := hround ((halfExp g).toNat * 2 ^ 10 + (halfMant g).toNat)
  refine ⟨hdist.trans_le (hnear.trans hother), fun hne heq => ?_⟩
  have heven : n % 2 = 0 := by
    by_cases hm : (halfExp g).toNat * 2 ^ 10 + (halfMant g).toNat = n
    · have hzero : finite32 A = 0 := by
        by_contra hx
        exact hne (eq_of_abs_eq_of_dist_eq (by rw [abs_finite16, hm, habs]) heq.symm hx)
      rw [hzero, abs_zero] at hround
      rw [eq_zero_of_roundsTo_zero hround]
    · exact htie hm (le_antisymm hnear (by linarith))
  rw [BitVec.getLsbD, Nat.testBit_zero, decide_eq_false_iff_not]
  omega

end Sys2Proof.Machine

/-! The narrowing edges (42_float_to_half.md R134, R135). -/

namespace Sys2Proof.Machine

/-- 42 R136 on the edge: whichever way the build has the table. -/
theorem exec_f2hFast (a : Word) (s : State) : exec (.f2hFast a) s = exec (.f2h a) s := by
  change Host.Outcome.next (s.respond (yF2hFast s.params.tableImpl a)) = .next (s.respond (yF2h a))
  rw [yF2hFast_eq_yF2h]

theorem zext32_eq_ofNat (r : Half) : zext32 r = BitVec.ofNat 32 r.toNat :=
  (BitVec.ofNat_toNat 32 r).symm

end Sys2Proof.Machine

/-! The thresholds on the patterns of the positive floats (42_float_to_half.md R138, R139), and the sign,
which takes no part in them (R141). -/

namespace Sys2Proof.Machine

variable {A : Word}

/-- The patterns of the positive floats are ordered as their magnitudes: the least one to overflow is
`0x477FF000` (42 R138). -/
theorem overflow_iff_pattern (hA : A.toNat < 0x7F800000) :
    31 * 2 ^ 10 ≤ roundedMagnitude (floatExp A).toNat (floatMant A).toNat ↔
      0x477FF000 ≤ A.toNat := by
  rw [overflow_iff (floatMant A).isLt, floatExp_toNat, floatMant_toNat]
  omega

/-- The last positive float to give zero is `0x33000000` (42 R139). -/
theorem underflow_iff_pattern (hA : A.toNat < 2 ^ 31) :
    roundedMagnitude (floatExp A).toNat (floatMant A).toNat = 0 ↔ A.toNat ≤ 0x33000000 := by
  rw [roundedMagnitude_eq_zero_iff (floatMant A).isLt, floatExp_toNat, floatMant_toNat]
  omega

theorem floatSign_of_positive (hA : A.toNat < 2 ^ 31) : (floatSign A).toNat = 0 := by
  rw [floatSign_toNat]
  omega

theorem floatExp_ne_top_of_positive (hA : A.toNat < 0x7F800000) : floatExp A ≠ 255 := by
  apply BitVec.toNat_ne_iff_ne.mp
  rw [floatExp_toNat]
  change _ ≠ 255
  omega

/-- A positive operand gives zero where its magnitude rounds to zero. -/
theorem reduceDirect_eq_zero_iff (hA : A.toNat < 2 ^ 31) :
    reduceDirect A = 0x0000#16 ↔ A.toNat ≤ 0x33000000 := by
  rw [← underflow_iff_pattern hA, ← BitVec.toNat_inj, reduceDirect_toNat, floatSign_of_positive hA,
    reducedMagnitude]
  have hiff := roundedMagnitude_eq_zero_iff (E := (floatExp A).toNat) (floatMant A).isLt
  change _ = 0 ↔ _
  split <;> omega

/-- Every finite operand whose magnitude overflows gives the infinity of its sign. -/
theorem reduceDirect_toNat_of_overflow (hE : floatExp A ≠ 255)
    (hover : 31 * 2 ^ 10 ≤ roundedMagnitude (floatExp A).toNat (floatMant A).toNat) :
    (reduceDirect A).toNat = (floatSign A).toNat * 2 ^ 15 + 0x7C00 := by
  rw [reduceDirect_toNat, reducedMagnitude_of_finite (BitVec.toNat_ne_iff_ne.mpr hE),
    Nat.min_eq_right hover]
  rfl

/-- Setting the sign of a positive float leaves the rest (40 R81). -/
theorem setSign_toNat (hA : A.toNat < 2 ^ 31) :
    (A ||| 0x80000000#32).toNat = 2 ^ 31 + A.toNat := by
  rw [BitVec.toNat_or, Nat.or_comm, ← Nat.mul_one (2 ^ 31), Nat.two_pow_add_eq_or_of_lt hA]
  rfl

theorem reduceDirect_setSign_toNat (hA : A.toNat < 2 ^ 31) :
    (reduceDirect (A ||| 0x80000000#32)).toNat = (reduceDirect A).toNat + 2 ^ 15 := by
  have hsign : (floatSign (A ||| 0x80000000#32)).toNat = 1 := by
    rw [floatSign_toNat, setSign_toNat hA]
    omega
  have hexp : (floatExp (A ||| 0x80000000#32)).toNat = (floatExp A).toNat := by
    rw [floatExp_toNat, floatExp_toNat, setSign_toNat hA]
    omega
  have hmant : (floatMant (A ||| 0x80000000#32)).toNat = (floatMant A).toNat := by
    rw [floatMant_toNat, floatMant_toNat, setSign_toNat hA]
    omega
  rw [reduceDirect_toNat, reduceDirect_toNat, hsign, hexp, hmant, floatSign_of_positive hA]
  omega

end Sys2Proof.Machine

/-! The statements about float to half (42_float_to_half.md). -/

namespace Sys2Proof.Proofs

open Sys2Proof.Machine Sys2Proof.Claims

/-- Settles O28: the zero test and the table give what the direct path gives. -/
theorem fastAndDirectPathsAgree : Obligations.FastAndDirectPathsAgree :=
  reduceFast_eq_reduceDirect

/-- Settles O29: below the sign exponent and mantissa are one number, whose value grows with it, so the
rounded one is the nearest of all; 65520 is half of the way from the last finite half to the next. -/
theorem reduceRoundsToNearestEven : Obligations.ReduceRoundsToNearestEven := by
  unfold Obligations.ReduceRoundsToNearestEven
  intro A hnan
  obtain ⟨-, -, -, hinf, hnan'⟩ := classesAreTheirConditions.2 A
  have hspecial (hne : floatClass A ≠ .infinity) : floatExp A ≠ 255 := by
    intro hE
    by_cases hM : floatMant A = 0
    · exact hne (hinf.mpr ⟨hE, hM⟩)
    · exact hnan (hnan'.mpr ⟨hE, hM⟩)
  refine ⟨(reduceDirect_fields A).1, halfClass_reduceDirect_of_infinity, fun hne hover => ?_,
    fun hne hlt => ?_⟩
  · exact halfClass_reduceDirect_of_overflow (hspecial hne) ((overflow_iff_value A).mpr hover)
  · have hfinite := not_le.mp (mt (overflow_iff_value A).mp (not_le.mpr hlt))
    obtain ⟨hexp, -⟩ := reduceDirect_fields_of_finite (hspecial hne) hfinite
    exact ⟨hexp, fun g _ => reduceDirect_nearest (hspecial hne) hfinite g⟩

/-- Settles O32: the rounding drops the zeros that the widening put in. -/
theorem narrowingUndoesWidening : Obligations.NarrowingUndoesWidening := by
  unfold Obligations.NarrowingUndoesWidening
  intro h
  rw [reduceFast_eq_reduceDirect]
  exact ⟨reduceDirect_expand h, reduceDirect_expand h⟩

/-- Settles O21: the edge responds with the narrowed operand, zero-extended. -/
theorem floatToHalfAnswersReduceDirect : Obligations.FloatToHalfAnswersReduceDirect := by
  unfold Obligations.FloatToHalfAnswersReduceDirect
  refine ⟨decode_request 0x6#4, by decide, fun s a hs => ?_⟩
  rw [← zext32_eq_ofNat]
  exact answersWith_of_respond hs rfl

/-- Settles O22: with the table or without, the edge responds as the one of `F2H` does. -/
theorem fastFloatToHalfAnswersReduceFast : Obligations.FastFloatToHalfAnswersReduceFast := by
  unfold Obligations.FastFloatToHalfAnswersReduceFast
  refine ⟨decode_request 0x7#4, fun s a hs => ?_, fun s a _ => exec_f2hFast a s⟩
  rw [← zext32_eq_ofNat, reduceFast_eq_reduceDirect]
  exact answersWith_of_respond hs (exec_f2hFast a s)

/-- Settles O23: the first case of the direct path. -/
theorem reduceUnderflowsToSignedZero : Obligations.ReduceUnderflowsToSignedZero := by
  unfold Obligations.ReduceUnderflowsToSignedZero
  exact fun A hE => reduceDirect_toNat_of_underflow hE

/-- Settles O24: the rounding add and shift are the rounding to nearest even, and a 24-bit significand is
half of the last kept bit at `E = 102`, `M = 0` alone. -/
theorem reduceRoundsSubnormals : Obligations.ReduceRoundsSubnormals := by
  unfold Obligations.ReduceRoundsSubnormals
  intro A hlow hhigh
  have hM := (floatMant A).isLt
  have hmag := roundedMagnitude_of_subnormal (M := (floatMant A).toNat) (by omega) hhigh
  refine ⟨_, roundAt (2 ^ 23 + (floatMant A).toNat) (126 - (floatExp A).toNat), rfl, rfl, ?_⟩
  rw [Nat.add_comm (2 ^ 23)]
  refine ⟨roundAt_le_of_subnormal (by omega) (by omega), ?_,
    reduceDirect_toNat_of_subnormal hlow hhigh⟩
  rw [← hmag, roundedMagnitude_eq_zero_iff hM, ← BitVec.toNat_inj]
  change _ ↔ _ ∧ _ = 0
  omega

/-- Settles O25: the fields of the result for the exponent of all ones. -/
theorem reduceInfinitiesAndNans : Obligations.ReduceInfinitiesAndNans := by
  unfold Obligations.ReduceInfinitiesAndNans
  intro A hE
  obtain ⟨hexp, hmant⟩ := reduceDirect_fields_of_special hE
  refine ⟨(reduceDirect_fields A).1, hexp, fun hM => ?_, fun hM hhigh => ?_, fun hM hlow => ?_⟩
  · apply BitVec.eq_of_toNat_eq
    rw [hmant, hM]
    rfl
  · omega
  · have hM' : (floatMant A).toNat ≠ 0 := BitVec.toNat_ne_iff_ne.mpr hM
    apply BitVec.eq_of_toNat_eq
    rw [hmant]
    change _ = 1
    omega

/-- Settles O26: the magnitude is the rounded one, cut off at the infinity. -/
theorem reduceRoundsNormals : Obligations.ReduceRoundsNormals := by
  unfold Obligations.ReduceRoundsNormals
  refine ⟨fun M hM => ?_, fun A hlow hhigh => ?_⟩
  · have hr := roundSum_lt hM
    have hcarry := roundAt_carry_iff hM
    rw [← roundSum_div_eq_roundAt] at hcarry
    rw [carry_iff (by omega), ← hcarry]
    omega
  · have hdirect := reduceDirect_toNat A
    rw [reducedMagnitude_of_finite (by omega), roundedMagnitude_of_normal hlow] at hdirect
    refine ⟨((floatExp A).toNat - 112) * 2 ^ 10 + roundAt (floatMant A).toNat 13, rfl,
      fun hfinite => ?_, fun hover => ?_⟩
    · rw [hdirect, Nat.min_eq_left hfinite.le]
    · rw [hdirect, Nat.min_eq_right hover]
      rfl

/-- Settles O27: the direct path's result in each of the three ways. -/
theorem fastPathDispatch : Obligations.FastPathDispatch := by
  unfold Obligations.FastPathDispatch
  intro A
  refine ⟨fun hzero => ?_, fun hlow hhigh => ?_, fun _ _ => reduceFast_eq_reduceDirect A⟩
  · have hbits : A.extractLsb' 0 31 = 0 := by
      apply BitVec.eq_of_toNat_eq
      rw [BitVec.extractLsb'_toNat, Nat.shiftRight_zero, hzero]
      rfl
    have hA := A.isLt
    rw [reduceFast_eq_reduceDirect, reduceDirect_zero hbits, BitVec.extractLsb'_toNat,
      Nat.shiftRight_eq_div_pow]
    omega
  · rw [reduceFast_eq_reduceDirect, reduceDirect_toNat_of_dispatched hlow hhigh, roundSum,
      Nat.shiftRight_eq_div_pow, Nat.and_one_is_mod,
      ← Nat.add_assoc]

/-- Settles O30: the magnitude overflows from `E = 142`, `M = 0x7FF000` on, and the sign takes no part
in it. -/
theorem overflowThreshold : Obligations.OverflowThreshold := by
  unfold Obligations.OverflowThreshold
  refine ⟨by decide, by decide, fun A hA => ?_, fun A hlow hhigh => ?_, fun A hlow hhigh => ?_,
    fun A hA => reduceDirect_setSign_toNat hA⟩
  · have hiff := overflow_iff_pattern (A := A) (by omega)
    exact (reduceDirect_fields_of_finite (floatExp_ne_top_of_positive (by omega)) (by omega)).1
  · apply BitVec.eq_of_toNat_eq
    rw [reduceDirect_toNat_of_overflow (floatExp_ne_top_of_positive hhigh)
      ((overflow_iff_pattern hhigh).mpr hlow), floatSign_of_positive (by omega)]
    rfl
  · have hne : floatExp A ≠ 255 := BitVec.toNat_ne_iff_ne.mp (show _ ≠ 255 by omega)
    exact reduceDirect_toNat_of_overflow hne ((overflow_iff (floatMant A).isLt).mpr (.inl hlow))

/-- Settles O31: the magnitude is zero up to `E = 102`, `M = 0`. -/
theorem underflowThreshold : Obligations.UnderflowThreshold := by
  unfold Obligations.UnderflowThreshold
  refine ⟨fun A hA => reduceDirect_eq_zero_iff hA, by decide, fun A hA => ?_, fun A hE => ?_⟩
  · rw [(reduceDirect_eq_zero_iff (by omega)).mpr (by omega)]
    decide
  · obtain ⟨-, hexp, hmant⟩ := reduceDirect_fields A
    rw [reducedMagnitude_of_finite (by omega),
      (roundedMagnitude_eq_zero_iff (floatMant A).isLt).mpr (.inl hE)] at hexp hmant
    exact ⟨BitVec.eq_of_toNat_eq hexp, BitVec.eq_of_toNat_eq hmant⟩

/-- Settles O33: the sign field of the result. -/
theorem reductionKeepsTheSign : Obligations.ReductionKeepsTheSign := by
  unfold Obligations.ReductionKeepsTheSign
  intro A
  have hsign := (getLsbD_eq_of_sign (reduceDirect A) A (reduceDirect_fields A).1.symm).symm
  rw [reduceFast_eq_reduceDirect]
  exact ⟨hsign, hsign⟩

/-- Settles O34: each sum by the ranges of its parts. -/
theorem internalSumsDoNotWrap : Obligations.InternalSumsDoNotWrap := by
  unfold Obligations.InternalSumsDoNotWrap
  refine ⟨fun M hM => ?_, fun M t hM hlow hhigh => ⟨?_, ?_⟩, fun i M hM hne => ?_, fun A => ?_⟩
  · have hr := roundSum_lt hM
    refine ⟨?_, by omega⟩
    rw [roundSum]
    omega
  · have hpow : 2 ^ (t - 1) ≤ 2 ^ 23 := Nat.pow_le_pow_right (by omega) (by omega)
    have hbit : ((M + 2 ^ 23) >>> t) &&& 1 ≤ 1 := Nat.and_le_right
    have hpos : 0 < 2 ^ (t - 1) := by positivity
    rw [leadingOne_or hM]
    omega
  · rw [roundSubnormal_eq_roundAt hM (by omega)]
    exact roundAt_le_of_subnormal (by omega) hlow
  · have hr := roundSum_lt hM
    have hs := (i.extractLsb' 8 1).isLt
    obtain ⟨hlow, hhigh, hvalue⟩ := elut_toNat_of_ne_zero hne
    rw [Nat.shiftRight_eq_div_pow, hvalue]
    refine ⟨?_, ?_, ?_⟩ <;> omega
  · have hE := (floatExp A).isLt
    rw [reduceExp]
    refine ⟨?_, ?_, ?_⟩ <;> omega

/-- Settles O35: the classes and the quiet bit of the result for the exponent of all ones, and no other
float has a NaN for a result. -/
theorem nanInNanOut : Obligations.NanInNanOut := by
  unfold Obligations.NanInNanOut
  refine ⟨fun A => ⟨fun hc => ?_, halfClass_reduceDirect_ne_nan⟩, fun h hc => ?_⟩
  · obtain ⟨-, -, -, -, hnan⟩ := classesAreTheirConditions.2 A
    obtain ⟨-, -, -, -, hnan'⟩ := classesAreTheirConditions.1 (reduceDirect A)
    have hhalf := halfClass_reduceDirect_of_nan hc
    obtain ⟨hexp, hmant⟩ := hnan'.mp hhalf
    exact ⟨hhalf, floatClass_expand_of_nan hexp hmant,
      halfQuiet_reduceDirect_of_special (hnan.mp hc).1⟩
  · obtain ⟨-, -, -, -, hnan⟩ := classesAreTheirConditions.1 h
    exact floatQuiet_expand_of_special (hnan.mp hc).1

end Sys2Proof.Proofs

/-! Two builds that differ in `TABLE_IMPL` alone run in lockstep (43_tables.md R158): an edge does not
read the parameter, so it takes two states that differ in it alone to two such states. -/

namespace Sys2Proof.Machine

open Sys2Proof.Claims

/-- The block of another `TABLE_IMPL`, everything else as in `s` (00 R6). -/
def State.withTables (s : State) (impl : TableImpl) : State :=
  { s with params := { s.params with tableImpl := impl } }

/-- An accepted request whose outcome is `r` (60 R170, R171). -/
def State.deliver (s : State) : OpResult → State
  | .value y => s.respond y
  | .illegalOp => s.raiseIllegalOp

/-- The edge that accepts a request delivers its outcome, whichever way the build has the tables. -/
theorem exec_eq_deliver (i : Instr) (s : State) : exec i s = .next (s.deliver (outcomeOf i)) := by
  cases i with
  | h2fLut a => exact exec_h2fLut a s
  | f2hFast a =>
    rw [exec_f2hFast, outcomeOf, yF2hFast_eq_yF2h]
    rfl
  | _ => rfl

section Lockstep

variable (s : State) (impl : TableImpl)

theorem withTables_response : (s.withTables impl).response = s.response := rfl

theorem withTables_shiftIn (e : Stage) :
    (s.withTables impl).shiftIn e = (s.shiftIn e).withTables impl := by
  cases hr : s.wasReset with
  | false =>
    rw [shiftIn_of_not_reset s e hr, shiftIn_of_not_reset _ e (by exact hr)]
    rfl
  | true =>
    rw [shiftIn_of_reset s e hr, shiftIn_of_reset _ e (by exact hr)]
    rfl

theorem withTables_deliver (r : OpResult) :
    (s.withTables impl).deliver r = (s.deliver r).withTables impl := by
  cases r with
  | value y => exact withTables_shiftIn s impl _
  | illegalOp =>
    simp only [State.deliver, State.raiseIllegalOp]
    rw [withTables_shiftIn]
    rfl

theorem withTables_idleEdge :
    (s.withTables impl).idleEdge = s.idleEdge.withTables impl := by
  simp only [State.idleEdge]
  rw [withTables_shiftIn]
  rfl

/-- Each edge takes two builds that differ in `TABLE_IMPL` alone to two that do (43 R158). -/
theorem edge_run_withTables (e : Edge) :
    ∃ t, e.run s = .next t ∧ e.run (s.withTables impl) = .next (t.withTables impl) := by
  cases e with
  | reset => exact ⟨_, rfl, rfl⟩
  | idle => exact ⟨_, rfl, congrArg Host.Outcome.next (withTables_idleEdge s impl)⟩
  | request i =>
    refine ⟨_, exec_eq_deliver i s, ?_⟩
    rw [Edge.run, exec_eq_deliver, withTables_deliver]

/-- One step of the lockstep: both builds sample the same ports. -/
theorem step_withTables :
    ∃ t, step s = .next t ∧ step (s.withTables impl) = .next (t.withTables impl) := by
  have hsample : (s.withTables impl).sample.1 = s.sample.1 := by
    cases hin : s.inputs with
    | nil => rw [sample_nil hin, sample_nil (s := s.withTables impl) hin]
    | cons p rest => rw [sample_cons hin, sample_cons (s := s.withTables impl) hin]
  rw [step_eq_run, step_eq_run, hsample]
  exact edge_run_withTables { s with inputs := s.inputs.tail } impl _

end Lockstep

/-- Once reset, a block stays so (10 R33). -/
theorem wasReset_of_step {s t : State} (hr : s.wasReset = true) (h : step s = .next t) :
    t.wasReset = true := by
  rcases step_reset_or_shifts h with ⟨-, rfl⟩ | ⟨-, -, e, hshift⟩
  · rfl
  · exact hshift.wasReset.trans hr

/-- Once reset, a cycle presents the same as itself: only the `Y` of a reserved request is a draw, and it
is not compared (60 R171). -/
theorem presentSame_self {s : State} (hr : s.wasReset = true) : PresentSame s.response s.response := by
  rw [State.response, hr]
  cases s.out.valid with
  | false => trivial
  | true => cases s.out.illegal <;> simp [PresentSame, Response.same]

end Sys2Proof.Machine

namespace Sys2Proof.Proofs

open Sys2Proof.Machine Sys2Proof.Claims

/-- Settles O39, by induction on the cycles: the two builds step in lockstep, and a cycle reads nothing
of `TABLE_IMPL`. -/
theorem tableImplIsUnobservable : Obligations.TableImplIsUnobservable := by
  unfold Obligations.TableImplIsUnobservable
  intro k s impl hr
  change List.Forall₂ PresentSame (presented k (s.withTables impl)) (presented k s)
  induction k generalizing s with
  | zero => exact .nil
  | succ k ih =>
    obtain ⟨t, hstep, hstep'⟩ := step_withTables s impl
    have hreset := wasReset_of_step hr hstep
    rw [presented_succ hstep, presented_succ hstep', withTables_response]
    exact .cons (presentSame_self hreset) (ih t hreset)

end Sys2Proof.Proofs

/-! The dispatch table by its index (43_tables.md R150, R151), and its bound (R156). -/

namespace Sys2Proof.Machine

variable {bound : Nat} {i : BitVec 9}

/-- The low eight bits of a table index are an exponent, its top bit a sign (43 R150). -/
theorem index_exp_toNat (i : BitVec 9) : (i.extractLsb' 0 8).toNat = i.toNat % 2 ^ 8 := by
  rw [BitVec.extractLsb'_toNat, Nat.shiftRight_zero]

theorem index_sign_toNat (i : BitVec 9) : (i.extractLsb' 8 1).toNat = i.toNat / 2 ^ 8 := by
  rw [BitVec.extractLsb'_toNat, Nat.shiftRight_eq_div_pow]
  have := i.isLt
  omega

/-- An entry whose half exponent the table has: a sign and that half exponent (43 R150). -/
theorem elutUpTo_toNat (hbound : bound ≤ 31) (hlow : 113 ≤ i.toNat % 2 ^ 8)
    (hhigh : i.toNat % 2 ^ 8 ≤ bound + 112) : (elutUpTo bound i).toNat =
      i.toNat / 2 ^ 8 * 2 ^ 15 + (i.toNat % 2 ^ 8 - 112) * 2 ^ 10 := by
  have hexp : (((i.toNat % 2 ^ 8 : Nat) : Int) - 112).toNat = i.toNat % 2 ^ 8 - 112 := by omega
  simp only [elutUpTo, index_exp_toNat]
  rw [if_pos (by omega), hexp, Nat.shiftLeft_eq, signInPlace_or_toNat _ (by omega), index_sign_toNat]

/-- Every other entry is zero (43 R150). -/
theorem elutUpTo_eq_zero (h : i.toNat % 2 ^ 8 < 113 ∨ bound + 112 < i.toNat % 2 ^ 8) :
    elutUpTo bound i = 0#16 := by
  simp only [elutUpTo, index_exp_toNat]
  exact if_neg (by omega)

/-- ELUT has the half exponents up to 29 (43 R150). -/
theorem elut_toNat (hlow : 113 ≤ i.toNat % 2 ^ 8) (hhigh : i.toNat % 2 ^ 8 ≤ 141) :
    (elut i).toNat = i.toNat / 2 ^ 8 * 2 ^ 15 + (i.toNat % 2 ^ 8 - 112) * 2 ^ 10 :=
  elutUpTo_toNat (bound := 29) (by norm_num) hlow hhigh

theorem elut_eq_zero (h : i.toNat % 2 ^ 8 < 113 ∨ 141 < i.toNat % 2 ^ 8) : elut i = 0#16 :=
  elutUpTo_eq_zero (bound := 29) h

theorem elut_ne_zero_iff (i : BitVec 9) :
    elut i ≠ 0#16 ↔ 113 ≤ i.toNat % 2 ^ 8 ∧ i.toNat % 2 ^ 8 ≤ 141 := by
  constructor
  · intro h
    obtain ⟨hlow, hhigh⟩ := not_or.mp (mt elut_eq_zero h)
    exact ⟨by omega, by omega⟩
  · rintro ⟨hlow, hhigh⟩
    have hvalue := elut_toNat hlow hhigh
    exact BitVec.toNat_ne_iff_ne.mp (show (elut i).toNat ≠ 0 by omega)

/-- 43 R151: the non-zero entries are two blocks of 29, one of each sign. -/
theorem countP_elut_ne_zero :
    (List.range 512).countP (fun i => elut (BitVec.ofNat 9 i) != 0#16) = 58 := by
  have hblocks : {i ∈ Finset.range 512 | (elut (BitVec.ofNat 9 i) != 0#16) = true} =
      Finset.Ico 113 142 ∪ Finset.Ico 369 398 := by
    ext i
    rw [Finset.mem_filter, bne_iff_ne, elut_ne_zero_iff, BitVec.toNat_ofNat]
    simp only [Finset.mem_range, Finset.mem_union, Finset.mem_Ico]
    omega
  calc (List.range 512).countP (fun i => elut (BitVec.ofNat 9 i) != 0#16)
    _ = (Finset.Ico 113 142 ∪ Finset.Ico 369 398 : Finset Nat).card := by
      simp only [← hblocks, ← Nat.count_eq_card_filter_range, Nat.count, Bool.decide_eq_true]
    _ = 58 := rfl

/-- The entries that `countP_elut_ne_zero` does not count. -/
theorem countP_elut_eq_zero :
    (List.range 512).countP (fun i => elut (BitVec.ofNat 9 i) == 0#16) = 454 := by
  have hsum := List.length_eq_countP_add_countP
    (fun i => elut (BitVec.ofNat 9 i) != 0#16) (l := List.range 512)
  rw [countP_elut_ne_zero, List.length_range] at hsum
  simp only [bne, Bool.not_eq_true', Bool.not_eq_false, Bool.decide_eq_true] at hsum
  omega

/-- The common case of the fast path answers as the direct path up to half exponent 30, where a
rounding that carries gives the infinity (42 R131, 43 R156). -/
theorem reduceDirect_toNat_of_halfExp_le_30 {A : Word} (hlow : 113 ≤ (floatExp A).toNat)
    (hhigh : (floatExp A).toNat ≤ 142) : (reduceDirect A).toNat = (floatSign A).toNat * 2 ^ 15 +
      (((floatExp A).toNat - 112) * 2 ^ 10 + roundSum (floatMant A).toNat / 2 ^ 13) := by
  have hr := roundSum_lt (floatMant A).isLt
  by_cases h : (floatExp A).toNat ≤ 141
  · exact reduceDirect_toNat_of_dispatched hlow h
  · rw [reduceDirect_toNat_of_large (by omega) (by omega), Nat.min_eq_left (by omega)]

theorem dispatchIndex_mod (A : Word) :
    (A.extractLsb' 23 9).toNat % 2 ^ 8 = (floatExp A).toNat := by
  rw [← index_exp_toNat, dispatchIndex_exp]

theorem dispatchIndex_div (A : Word) :
    (A.extractLsb' 23 9).toNat / 2 ^ 8 = (floatSign A).toNat := by
  rw [← index_sign_toNat, dispatchIndex_sign]

/-- 43 R156: a dispatch table of half exponents up to 30 at most gives the direct path's results. -/
theorem reduceByTable_elutUpTo (hbound : bound ≤ 30) (A : Word) :
    reduceByTable (elutUpTo bound) A = reduceDirect A := by
  simp only [reduceByTable]
  split
  case isTrue hzero => exact (reduceDirect_zero hzero).symm
  case isFalse =>
    split
    case isTrue hentry =>
      obtain ⟨hlow, hhigh⟩ := not_or.mp (mt elutUpTo_eq_zero hentry)
      have hvalue := elutUpTo_toNat (i := A.extractLsb' 23 9) (show bound ≤ 31 by omega)
        (by omega) (by omega)
      rw [dispatchIndex_mod] at hlow hhigh hvalue
      rw [dispatchIndex_div] at hvalue
      have hr := roundSum_lt (floatMant A).isLt
      have hs := (floatSign A).isLt
      apply BitVec.eq_of_toNat_eq
      rw [reduceDirect_toNat_of_halfExp_le_30 (by omega) (by omega), BitVec.toNat_ofNat, hvalue,
        Nat.shiftRight_eq_div_pow]
      omega
    case isFalse => rfl

end Sys2Proof.Machine

namespace Sys2Proof.Proofs

open Sys2Proof.Machine

/-- Settles O36: an index above 255 is a negative sign, and the low eight bits are the exponent, which
the table has from 113 to 141. -/
theorem dispatchTableListing : Obligations.DispatchTableListing := by
  unfold Obligations.DispatchTableListing
  refine ⟨fun i => ?_, countP_elut_ne_zero, countP_elut_eq_zero⟩
  have hi := i.isLt
  refine ⟨fun _ => elut_eq_zero (by omega), fun hlow hhigh => ?_, fun _ _ => elut_eq_zero (by omega),
    fun hlow hhigh => ?_, fun _ => elut_eq_zero (by omega)⟩
  · rw [elut_toNat (by omega) (by omega)]
    omega
  · rw [elut_toNat (by omega) (by omega)]
    omega

/-- Settles O38: up to half exponent 30 the fast path is the direct path; with 31 in the table, `E = 143`
and `M = 0x2000` give the exponent of all ones with the mantissa 1, a NaN. -/
theorem dispatchBoundIsUnobservable : Obligations.DispatchBoundIsUnobservable := by
  unfold Obligations.DispatchBoundIsUnobservable
  refine ⟨fun A => ?_, 0x47802000#32, by decide, by decide⟩
  rw [reduceFast_eq_reduceDirect]
  exact reduceByTable_elutUpTo (bound := 30) le_rfl A

end Sys2Proof.Proofs

/-! The expansion table by its index (43_tables.md R152, R153). -/

namespace Sys2Proof.Machine

/-- A float is its three fields side by side (40 R81). -/
theorem word_toNat_eq_fields (f : Word) : f.toNat =
    (floatSign f).toNat * 2 ^ 31 + (floatExp f).toNat * 2 ^ 23 + (floatMant f).toNat := by
  have := f.isLt
  rw [floatSign_toNat, floatExp_toNat, floatMant_toNat]
  omega

theorem halfSign_toNat (h : Half) : (halfSign h).toNat = h.toNat / 2 ^ 15 := by
  have := h.isLt
  rw [halfSign, BitVec.extractLsb'_toNat, Nat.shiftRight_eq_div_pow]
  omega

theorem halfExp_toNat (h : Half) : (halfExp h).toNat = h.toNat / 2 ^ 10 % 2 ^ 5 := by
  rw [halfExp, BitVec.extractLsb'_toNat, Nat.shiftRight_eq_div_pow]

theorem halfMant_toNat (h : Half) : (halfMant h).toNat = h.toNat % 2 ^ 10 := by
  rw [halfMant, BitVec.extractLsb'_toNat, Nat.shiftRight_zero]

variable {h g : Half}

/-- 41 R103, R104: the entry of an infinity or a NaN. -/
theorem expand_toNat_of_special (he : (halfExp h).toNat = 31) : (expand h).toNat =
    (halfSign h).toNat * 2 ^ 31 + 255 * 2 ^ 23 + (halfMant h).toNat * 2 ^ 13 := by
  have he' : halfExp h = 31 := BitVec.eq_of_toNat_eq he
  have hne : halfExp h ≠ 0 := by rw [he']; decide
  rw [word_toNat_eq_fields, floatSign_expand, floatExp_expand_of_special he',
    floatMant_expand_of_exp_ne_zero hne]
  rfl

/-- 41 R105: the entry of a normal half. -/
theorem expand_toNat_of_normal (hlow : 1 ≤ (halfExp h).toNat) (hhigh : (halfExp h).toNat ≤ 30) :
    (expand h).toNat = (halfSign h).toNat * 2 ^ 31 + ((halfExp h).toNat + 112) * 2 ^ 23 +
      (halfMant h).toNat * 2 ^ 13 := by
  obtain ⟨hne, hne'⟩ := (normalHalfExp_iff (halfExp h)).mpr ⟨hlow, hhigh⟩
  rw [word_toNat_eq_fields, floatSign_expand, floatExp_expand_of_normal hne hne',
    floatMant_expand_of_exp_ne_zero hne]

/-- 41 R102: the entry of a subnormal half whose highest set bit is `p`. -/
theorem expand_toNat_of_subnormal {p : Nat} (he : (halfExp h).toNat = 0)
    (hlow : 2 ^ p ≤ (halfMant h).toNat) (hhigh : (halfMant h).toNat < 2 ^ (p + 1)) :
    (expand h).toNat = (halfSign h).toNat * 2 ^ 31 + (p + 103) * 2 ^ 23 +
      (halfMant h).toNat * 2 ^ (23 - p) % 2 ^ 23 := by
  have hpos : 0 < 2 ^ p := by positivity
  have he' : halfExp h = 0 := BitVec.eq_of_toNat_eq he
  have hm : (halfMant h).toNat ≠ 0 := by omega
  have hm' : halfMant h ≠ 0 := BitVec.toNat_ne_iff_ne.mp hm
  have hmsb : msb (halfMant h).toNat = p := (Nat.log2_eq_iff hm).mpr ⟨hlow, hhigh⟩
  rw [word_toNat_eq_fields, floatSign_expand, floatExp_expand_of_subnormal he' hm',
    floatMant_expand_of_subnormal he' hm', hmsb]

/-- Exponent and mantissa of a half make those of its float; the sign takes no part (41 R111). -/
theorem expand_fields_congr (he : halfExp h = halfExp g) (hm : halfMant h = halfMant g) :
    floatExp (expand h) = floatExp (expand g) ∧ floatMant (expand h) = floatMant (expand g) := by
  simp only [expand, expandSubnormal, he, hm]
  split_ifs <;> simp

/-- 43 R153: the entry of a negative half is the one of its magnitude with the sign set. -/
theorem expand_of_negative (hneg : 2 ^ 15 ≤ h.toNat) :
    expand h = 0x80000000#32 ||| expand (h &&& 0x7FFF#16) := by
  have hlt := h.isLt
  have hmag : (h &&& 0x7FFF#16).toNat = h.toNat % 2 ^ 15 := by
    rw [BitVec.toNat_and]
    exact Nat.and_two_pow_sub_one_eq_mod _ 15
  have hexp : halfExp h = halfExp (h &&& 0x7FFF#16) := by
    apply BitVec.eq_of_toNat_eq
    rw [halfExp_toNat, halfExp_toNat, hmag]
    omega
  have hmant : halfMant h = halfMant (h &&& 0x7FFF#16) := by
    apply BitVec.eq_of_toNat_eq
    rw [halfMant_toNat, halfMant_toNat, hmag]
    omega
  obtain ⟨hE, hM⟩ := expand_fields_congr hexp hmant
  have hpos : (expand (h &&& 0x7FFF#16)).toNat < 2 ^ 31 := by
    rw [word_toNat_eq_fields, floatSign_expand, halfSign_toNat, hmag]
    omega
  apply BitVec.eq_of_toNat_eq
  rw [BitVec.or_comm, setSign_toNat hpos, word_toNat_eq_fields (expand h),
    word_toNat_eq_fields (expand (h &&& 0x7FFF#16)), hE, hM, floatSign_expand, floatSign_expand,
    halfSign_toNat, halfSign_toNat, hmag]
  omega

end Sys2Proof.Machine

namespace Sys2Proof.Proofs

open Sys2Proof.Machine

/-- Settles O37: each range of the index is a class of halves, whose entries are known by their fields. -/
theorem expansionTableListing : Obligations.ExpansionTableListing := by
  unfold Obligations.ExpansionTableListing
  refine ⟨fun h => ?_, by decide, by decide, by decide, by decide⟩
  have hs := halfSign_toNat h
  have he := halfExp_toNat h
  have hm := halfMant_toNat h
  refine ⟨fun hlow hhigh => ?_, fun hlow hhigh => ?_, fun hlow _ => expand_of_negative (by omega),
    fun hlow => ?_, fun p hlow hhigh hp hp' => ?_⟩ <;> rw [hlut]
  · rw [expand_toNat_of_normal (by omega) (by omega)]
    omega
  · rw [expand_toNat_of_special (by omega)]
    omega
  · have := h.isLt
    rw [expand_toNat_of_special (by omega)]
    omega
  · have hmant : (halfMant h).toNat = h.toNat := by omega
    rw [expand_toNat_of_subnormal (p := p) (by omega) (by omega) (by omega), hmant]
    omega

end Sys2Proof.Proofs

/-! The exception-like event of the block and its absence (60_exceptions.md R170, R171, R182): which
edges raise `IllegalOp`, and what an idle edge does. -/

namespace Sys2Proof.Machine

open Sys2Proof.Claims

/-- An assigned request completes with its value wherever the block has been reset (60 R170). -/
theorem answersWith_of_value {i : Instr} {s : State} {y : Word} (hs : Ready s)
    (h : outcomeOf i = .value y) : AnswersWith i s y := by
  apply answersWith_of_respond hs
  rw [exec_eq_deliver, h, State.deliver]

/-- The op code alone, by its bit 3, decides on `IllegalOp` (30 R65, 60 R171). -/
theorem opLayer_eq_illegalOp_iff (op : OpCode) (a : Word) :
    opLayer op a = .illegalOp ↔ op.getLsbD 3 = true := by
  cases h : op.getLsbD 3 with
  | false =>
    obtain ⟨y, hy⟩ := opLayer_value_of_assigned a h
    simp [hy]
  | true =>
    rw [opCode_bit3, decide_eq_true_eq] at h
    simp [opLayer, decodeOp_of_reserved a h, outcomeOf]

theorem answer_eq_illegalOp_iff (r : OpResult) :
    r.answer = OpResult.illegalOp.answer ↔ r = .illegalOp := by
  cases r <;> simp [OpResult.answer]

/-- Exactly an accepted request with a reserved op code is answered with `ILL = 1` (60 R171, 70 R193). -/
theorem portsAnswer_eq_illegalOp_iff (p : InPorts) :
    p.answer = some OpResult.illegalOp.answer ↔ accepts p ∧ p.op.getLsbD 3 = true := by
  rw [accepts, ← opLayer_eq_illegalOp_iff p.op p.a, ← answer_eq_illegalOp_iff]
  cases hr : p.rst <;> cases hv : p.valid <;> simp [InPorts.answer, InPorts.outcome, hr, hv]

theorem nextAnswer_eq_illegalOp_iff (s : State) :
    s.nextAnswer = some OpResult.illegalOp.answer ↔
      ∃ p rest, s.inputs = p :: rest ∧ accepts p ∧ p.op.getLsbD 3 = true := by
  cases h : s.inputs with
  | nil => simp [State.nextAnswer, h]
  | cons p rest => simp [State.nextAnswer, h, portsAnswer_eq_illegalOp_iff]

theorem stageResponse_eq_illegalOp_iff (st : Stage) :
    st.response = some OpResult.illegalOp.answer ↔ (st.v && st.ill) = true := by
  cases hv : st.v <;> cases hi : st.ill <;> simp [Stage.response, OpResult.answer, hv, hi]

/-- A reset edge accepts nothing, so the ports are not answered (70 R191). -/
theorem answer_of_reset {p : InPorts} (h : p.rst = true) : p.answer = none := by
  simp [InPorts.answer, InPorts.outcome, h]

/-- The fault record after any step: one `IllegalOp` more exactly if the edge is answered so (log 4). -/
theorem faults_of_step {s t : State} (h : step s = .next t) :
    t.faults = if s.nextAnswer = some OpResult.illegalOp.answer then .illegalOp :: s.faults
      else s.faults := by
  cases hr : s.sample.1.rst with
  | true =>
    obtain rfl := Host.Outcome.next.inj ((step_reset hr).symm.trans h)
    rw [← sample_answer, answer_of_reset hr, if_neg (by simp), resetEdge_faults]
  | false =>
    obtain ⟨u, e, hu, hshift, -, hanswer⟩ := step_shifts hr
    obtain rfl := Host.Outcome.next.inj (hu.symm.trans h)
    simp only [hshift.faults, ← hanswer, stageResponse_eq_illegalOp_iff]

/-- An edge with `rst = 0` and `in_valid = 0` (60 R182). -/
theorem step_idle {s : State} (hr : s.sample.1.rst = false) (hv : s.sample.1.valid = false) :
    step s = .next (State.idleEdge { s with inputs := s.inputs.tail }) := by
  rw [step_eq_run, InPorts.edge, hr, hv]
  rfl

end Sys2Proof.Machine

/-! The statements about exceptions (60_exceptions.md). -/

namespace Sys2Proof.Proofs

open Sys2Proof.Machine Sys2Proof.Claims

/-- Settles O40: with bit 35 zero the op code is assigned, so its outcome is a value. -/
theorem assignedRequestsAnswerLegally : Obligations.AssignedRequestsAnswerLegally := by
  unfold Obligations.AssignedRequestsAnswerLegally
  intro w s hs hbit
  rw [← op_bit3] at hbit
  obtain ⟨y, hy⟩ := opLayer_value_of_assigned w.operand hbit
  exact ⟨y, answersWith_of_value hs hy⟩

/-- Settles O41: the edge raises `IllegalOp` without reading the request further, and the record grows
exactly at the edges that are answered so. -/
theorem reservedRequestsAnswerIllegal : Obligations.ReservedRequestsAnswerIllegal := by
  unfold Obligations.ReservedRequestsAnswerIllegal
  refine ⟨fun s op a hs _ => ?_, fun _ _ _ _ _ _ _ => rfl, fun s t hstep => ?_⟩
  · have hadvanced := advanced_of_shifts hs (shifts_raiseIllegalOp s) (raiseIllegalOp_inputs s)
    exact ⟨s.raiseIllegalOp, _, rfl, hadvanced, rfl, Nat.lt_succ_of_le (shiftIn_draws_le s _)⟩
  · rw [← nextAnswer_eq_illegalOp_iff, faults_of_step hstep]
    exact ⟨fun hin => if_pos hin, fun hin => if_neg hin⟩

/-- Settles O49: the ports are sampled as an idle edge, at which an empty stage enters. -/
theorem idleEdgesOnlyAdvanceThePipeline : Obligations.IdleEdgesOnlyAdvanceThePipeline := by
  unfold Obligations.IdleEdgesOnlyAdvanceThePipeline
  intro s hs hidle
  obtain ⟨hrst, hvalid⟩ : s.sample.1.rst = false ∧ s.sample.1.valid = false := by
    rcases hidle with hin | ⟨p, rest, hin, hr, hv⟩
    · rw [sample_nil hin]
      exact ⟨rfl, rfl⟩
    · rw [sample_cons hin]
      exact ⟨hr, hv⟩
  have hready : Ready { s with inputs := s.inputs.tail } := hs
  exact ⟨_, _, _, step_idle hrst hvalid,
    advanced_of_shifts hready (shifts_idleEdge _) (idleEdge_inputs _), idleEdge_faults _⟩

end Sys2Proof.Proofs

/-! One step by its edge, and the terms the statements about runs are in: what a stage holds, what
the host reads, which ports are accepted (70_reset_and_hazards.md R191 to R195). -/

namespace Sys2Proof.Machine

open Sys2Proof.Claims

/-- No step faults or refuses (93 section 2). -/
theorem step_next (s : State) : ∃ t, step s = .next t := by
  rcases step_cases s with h | h | ⟨y, h⟩ | h <;> exact ⟨_, h⟩

/-- An edge that accepts a request (70 R193). -/
theorem step_request {s : State} {p : InPorts} {rest : List InPorts} (hin : s.inputs = p :: rest)
    (hp : accepts p) : step s = exec (decode (request p.op p.a)) { s with inputs := rest } := by
  obtain ⟨hr, hv⟩ := hp
  rw [step_eq_run, sample_cons hin, hin, InPorts.edge, hr, hv]
  rfl

/-- An edge with `rst = 1` (70 R191), as the stream lists it. -/
theorem step_reset_cons {s : State} {p : InPorts} {rest : List InPorts} (hin : s.inputs = p :: rest)
    (hp : p.rst = true) : step s = .next (State.resetEdge { s with inputs := rest }) := by
  rw [step_reset (by rwa [sample_cons hin]), hin, List.tail_cons]

/-- Everything one step can do, with what enters the pipeline: at an edge without reset it is the
answer to what the edge presents. -/
theorem step_reset_or_answers {s t : State} (h : step s = .next t) :
    (s.sample.1.rst = true ∧ t = State.resetEdge { s with inputs := s.inputs.tail }) ∨
    (s.sample.1.rst = false ∧ t.inputs = s.inputs.tail ∧
      ∃ e, Shifts s t e ∧ e.response = s.nextAnswer) := by
  rcases step_reset_or_shifts h with hreset | ⟨hr, -⟩
  · exact .inl hreset
  · obtain ⟨u, e, hu, hshift, hin, hanswer⟩ := step_shifts hr
    obtain rfl := Host.Outcome.next.inj (hu.symm.trans h)
    exact .inr ⟨hr, hin, e, hshift, hanswer⟩

theorem ready_resetEdge (s : State) : Ready s.resetEdge :=
  ⟨resetEdge_wasReset s, (cleared_resetEdge s).depth⟩

theorem ready_of_step {s t : State} (hs : Ready s) (h : step s = .next t) : Ready t := by
  rcases step_reset_or_shifts h with ⟨-, rfl⟩ | ⟨-, -, e, hshift⟩
  · exact ready_resetEdge _
  · exact ready_of_shifts hs hshift

theorem params_of_step {s t : State} (h : step s = .next t) : t.params = s.params := by
  rcases step_reset_or_shifts h with ⟨-, rfl⟩ | ⟨-, -, e, hshift⟩
  · rfl
  · exact hshift.params

theorem inputs_of_step {s t : State} (h : step s = .next t) : t.inputs = s.inputs.tail := by
  rcases step_reset_or_shifts h with ⟨-, rfl⟩ | ⟨-, hin, -⟩
  · rfl
  · exact hin

/-- After any step the last stage drives the outputs, whatever drove them before it (10 R29). -/
theorem driven_of_step {s t : State} {last : Stage} (h : step s = .next t)
    (hlast : t.stages.getLast? = some last) : t.out = last.drive := by
  rcases step_reset_or_shifts h with ⟨-, rfl⟩ | ⟨-, -, e, hshift⟩
  · exact (inv_resetEdge _).driven last hlast
  · rw [hshift.stages] at hlast
    rw [hshift.out, shiftIn_driven s e hlast]

/-- The `LATENCY`-th stage is the last one. -/
theorem getLast?_stages {s : State} (hs : Ready s) :
    s.stages.getLast? = s.stages[s.params.latency - 1]? := by
  rw [List.getLast?_eq_getElem?, hs.2]

/-- A stage holds a response exactly if its valid bit is set. -/
theorem stage_valid_eq_isSome (st : Stage) : st.v = st.response.isSome := by
  cases h : st.v <;> simp [Stage.response, h]

theorem stage_response_eq_none_iff (st : Stage) : st.response = none ↔ st.v = false := by
  rw [stage_valid_eq_isSome, Option.isSome_eq_false_iff, Option.isNone_iff_eq_none]

theorem out_valid_eq_isSome {s : State} (hr : s.wasReset = true) :
    s.out.valid = s.response.isSome := by
  cases h : s.out.valid <;> simp [State.response, hr, h]

theorem response_of_silent {s : State} (h : s.out.valid = false) : s.response = none := by
  rw [State.response, h]
  rfl

/-- Outputs on which the host reads the answer of an outcome present that outcome (00 R10,
60 R171). -/
theorem onPorts_of_response {s : State} {r : OpResult} (hr : s.wasReset = true)
    (h : s.response = some r.answer) : r.onPorts s.out := by
  have hvalid : s.out.valid = true := by rw [out_valid_eq_isSome hr, h, Option.isSome_some]
  rw [State.response, if_pos hvalid, if_pos hr, Option.some.injEq] at h
  cases hill : s.out.illegal <;> cases r <;> simp [hill, OpResult.answer] at h
  case false.value y => rw [OpResult.onPorts, ← hvalid, ← h, ← hill]
  case true.illegalOp => exact ⟨hvalid, hill⟩

/-- Exactly the ports that present a request without reset are answered (70 R193). -/
theorem portsAnswer_isSome_iff (p : InPorts) : p.answer.isSome = true ↔ accepts p := by
  cases hr : p.rst <;> cases hv : p.valid <;>
    simp [InPorts.answer, InPorts.outcome, accepts, hr, hv]

/-- What enters the pipeline is an answer exactly if the stream's next edge accepts a request
(70 R193). -/
theorem nextAnswer_isSome_iff (s : State) :
    s.nextAnswer.isSome = true ↔ ∃ p rest, s.inputs = p :: rest ∧ accepts p := by
  cases h : s.inputs with
  | nil => simp [State.nextAnswer, h]
  | cons p rest => simp [State.nextAnswer, h, portsAnswer_isSome_iff]

theorem answer_of_accepts {p : InPorts} (h : accepts p) :
    p.answer = some (opLayer p.op p.a).answer := answer_of_request h.1 h.2

/-- With no stage the host reads the answer to the same cycle's ports (70 R195). -/
theorem step_of_zero_latency {s t : State} {p : InPorts} {rest : List InPorts}
    (hr : s.wasReset = true) (hlat : s.params.latency = 0) (hin : s.inputs = p :: rest)
    (h : step s = .next t) : t.stages = [] ∧ t.response = p.answer := by
  rcases step_reset_or_answers h with ⟨hp, rfl⟩ | ⟨-, -, e, hshift, hanswer⟩
  · rw [sample_cons hin] at hp
    rw [response_of_silent (resetEdge_out_valid _), answer_of_reset hp, resetEdge_stages, hlat]
    exact ⟨rfl, rfl⟩
  · have hdrive : t.out = e.drive := hshift.out.trans (shiftIn_out_combinational e hr hlat)
    rw [response_of_driven (hshift.wasReset.trans hr) hdrive, hanswer, hshift.stages,
      shiftIn_stages s e hr, hlat, State.nextAnswer, hin]
    exact ⟨rfl, rfl⟩

theorem noReset_iff (inputs : List InPorts) :
    noReset inputs = true ↔ ∀ p ∈ inputs, p.rst = false := by
  simp [noReset]

theorem noRequest_iff (inputs : List InPorts) :
    noRequest inputs = true ↔ ∀ p ∈ inputs, ¬ accepts p := by
  simp [noRequest, accepts, or_iff_not_imp_left]

end Sys2Proof.Machine

/-! Where a response is on its way through the pipeline, with reset edges anywhere in the stream
(70_reset_and_hazards.md R191, R194). -/

namespace Sys2Proof.Machine

open Sys2Proof.Claims

theorem exists_after (k : Nat) (s : State) : ∃ u, after k s = some u := by
  induction k generalizing s with
  | zero => exact ⟨s, rfl⟩
  | succ k ih =>
    obtain ⟨t, hstep⟩ := step_next s
    rw [after_succ hstep]
    exact ih t

/-- A run of one edge or more begins with a step. -/
theorem step_of_after {k : Nat} {s u : State} (h : after (k + 1) s = some u) :
    ∃ t, step s = .next t ∧ after k t = some u := by
  obtain ⟨t, hstep⟩ := step_next s
  exact ⟨t, hstep, (after_succ hstep k).symm.trans h⟩

section After

variable {k : Nat} {s u : State}

theorem ready_of_after (hs : Ready s) (h : after k s = some u) : Ready u := by
  induction k generalizing s with
  | zero => exact Option.some.inj h ▸ hs
  | succ k ih =>
    obtain ⟨t, hstep, hrest⟩ := step_of_after h
    exact ih (ready_of_step hs hstep) hrest

theorem params_of_after (h : after k s = some u) : u.params = s.params := by
  induction k generalizing s with
  | zero => rw [← Option.some.inj h]
  | succ k ih =>
    obtain ⟨t, hstep, hrest⟩ := step_of_after h
    rw [ih hrest, params_of_step hstep]

/-- Each edge takes one entry off the host's stream. -/
theorem inputs_of_after (h : after k s = some u) : u.inputs = s.inputs.drop k := by
  induction k generalizing s with
  | zero => rw [← Option.some.inj h, List.drop_zero]
  | succ k ih =>
    obtain ⟨t, hstep, hrest⟩ := step_of_after h
    rw [ih hrest, inputs_of_step hstep, List.drop_tail]

/-- From the first edge on the last stage drives the outputs (10 R29). -/
theorem driven_of_after {last : Stage} (h : after (k + 1) s = some u)
    (hlast : u.stages.getLast? = some last) : u.out = last.drive := by
  induction k generalizing s with
  | zero =>
    obtain ⟨t, hstep, hrest⟩ := step_of_after h
    obtain rfl := Option.some.inj hrest
    exact driven_of_step hstep hlast
  | succ k ih =>
    obtain ⟨t, -, hrest⟩ := step_of_after h
    exact ih hrest

/-- The ports the host sees in a cycle are those of the state after the cycle's edge (70 R194). -/
theorem observe_getElem? {m : Nat} (hm : m < k) (h : after (m + 1) s = some u) :
    (observe k s)[m]? = some u.out := by
  obtain ⟨n, rfl⟩ := Nat.exists_eq_add_of_lt hm
  clear hm
  induction m generalizing s with
  | zero =>
    obtain ⟨t, hstep, hrest⟩ := step_of_after h
    obtain rfl := Option.some.inj hrest
    rw [observe_succ hstep, List.getElem?_cons_zero]
  | succ m ih =>
    obtain ⟨t, hstep, hrest⟩ := step_of_after h
    rw [observe_succ hstep, List.getElem?_cons_succ, Nat.succ_add]
    exact ih hrest

end After

/-- The response the stage at index `k` holds, if there is such a stage and it holds one. -/
def State.responseAt (s : State) (k : Nat) : Option Response := s.stages[k]?.bind Stage.response

theorem responseAt_resetEdge (s : State) (k : Nat) : s.resetEdge.responseAt k = none := by
  rw [State.responseAt, Option.bind_eq_none_iff]
  intro st hst
  exact (stage_response_eq_none_iff st).mpr
    ((cleared_resetEdge s).empty st (List.mem_of_getElem? hst))

section Edge

variable {s t : State} {k : Nat}

/-- The first stage takes the answer to what the edge presents, which at a reset edge is none. -/
theorem responseAt_zero_of_step (hs : Ready s) (hpos : 0 < s.params.latency)
    (h : step s = .next t) : t.responseAt 0 = s.nextAnswer := by
  rcases step_reset_or_answers h with ⟨hr, rfl⟩ | ⟨-, -, e, hshift, hanswer⟩
  · rw [responseAt_resetEdge, ← sample_answer, answer_of_reset hr]
  · rw [State.responseAt, hshift.stages, shiftIn_stage_zero e hs.1 hpos, Option.bind_some, hanswer]

/-- Every further stage takes what the one before it held, unless the edge is a reset edge. -/
theorem responseAt_succ_of_step (hs : Ready s) (hk : k + 1 < s.params.latency)
    (h : step s = .next t) :
    t.responseAt (k + 1) = if s.sample.1.rst then none else s.responseAt k := by
  rcases step_reset_or_shifts h with ⟨hr, rfl⟩ | ⟨hr, -, e, hshift⟩
  · rw [responseAt_resetEdge, if_pos hr]
  · rw [State.responseAt, hshift.stages, shiftIn_stage_succ e hs.1 hk, hr]
    rfl

end Edge

theorem noReset_take_succ (s : State) (m : Nat) :
    noReset (s.inputs.take (m + 1)) = (!s.sample.1.rst && noReset (s.inputs.tail.take m)) := by
  cases h : s.inputs with
  | nil => simp [sample_nil h, noReset, idlePorts]
  | cons p rest => simp [sample_cons h, noReset]

/-- A response moves on by one stage with each edge, and the first reset edge discards it. -/
theorem responseAt_of_after {k m : Nat} {s u : State} (hs : Ready s) (hk : k + m < s.params.latency)
    (h : after m s = some u) :
    u.responseAt (k + m) = if noReset (s.inputs.take m) then s.responseAt k else none := by
  induction m generalizing k s with
  | zero =>
    obtain rfl := Option.some.inj h
    rfl
  | succ m ih =>
    obtain ⟨t, hstep, hrest⟩ := step_of_after h
    have hmove : t.responseAt (k + 1) = if s.sample.1.rst then none else s.responseAt k :=
      responseAt_succ_of_step hs (by omega) hstep
    have hlater := ih (k := k + 1) (ready_of_step hs hstep)
      (by rw [params_of_step hstep]; omega) hrest
    rw [Nat.add_right_comm] at hlater
    rw [← Nat.add_assoc, hlater, hmove, inputs_of_step hstep, noReset_take_succ]
    cases s.sample.1.rst <;> simp

/-- What stage `k` holds is the answer to what was presented `k` edges before the last one, unless a
reset edge has come since. -/
theorem responseAt_of_edge {n k : Nat} {s u : State} (hs : Ready s) (hk : k < s.params.latency)
    (h : after (n + k + 1) s = some u) :
    u.responseAt k =
      if noReset ((s.inputs.drop (n + 1)).take k) then s.inputs[n]?.bind InPorts.answer
      else none := by
  induction n generalizing s with
  | zero =>
    rw [Nat.zero_add] at h
    obtain ⟨t, hstep, hrest⟩ := step_of_after h
    have hmove := responseAt_of_after (k := 0) (ready_of_step hs hstep)
      (by rw [params_of_step hstep]; omega) hrest
    rw [Nat.zero_add] at hmove
    rw [hmove, responseAt_zero_of_step hs (by omega) hstep, inputs_of_step hstep, State.nextAnswer,
      List.head?_eq_getElem?, List.drop_one]
  | succ n ih =>
    rw [Nat.succ_add] at h
    obtain ⟨t, hstep, hrest⟩ := step_of_after h
    rw [ih (ready_of_step hs hstep) (params_of_step hstep ▸ hk) hrest, inputs_of_step hstep,
      List.drop_tail, List.getElem?_tail]

/-- With a stage, the response of the last one is what the host reads (10 R29). -/
theorem response_of_after {k : Nat} {s u : State} (hs : Ready s) (hpos : 0 < s.params.latency)
    (h : after (k + 1) s = some u) : u.response = u.responseAt (s.params.latency - 1) := by
  have hu := ready_of_after hs h
  have hlat := params_of_after h
  obtain ⟨last, hlast⟩ : ∃ last, u.stages.getLast? = some last := by
    rw [getLast?_stages hu]
    exact ⟨_, List.getElem?_eq_getElem (by rw [hu.2, hlat]; omega)⟩
  rw [response_of_driven hu.1 (driven_of_after h hlast), State.responseAt, ← hlat,
    ← getLast?_stages hu, hlast, Option.bind_some]

/-- Edge `n` of a stream is answered exactly if it accepts a request. -/
theorem answerAt_isSome_iff (inputs : List InPorts) (n : Nat) :
    (inputs[n]?.bind InPorts.answer).isSome = true ↔ ∃ p, inputs[n]? = some p ∧ accepts p := by
  cases h : inputs[n]? with
  | none => simp
  | some p => simp [portsAnswer_isSome_iff]

/-- The edges strictly between `n` and `n + L` are without reset. -/
theorem noReset_window_iff {inputs : List InPorts} {n l : Nat} :
    noReset ((inputs.drop (n + 1)).take (l - 1)) = true ↔
      ∀ j q, n < j → j < n + l → inputs[j]? = some q → q.rst = false := by
  rw [noReset_iff]
  constructor
  · intro h j q hlow hhigh hq
    apply h q
    rw [List.mem_iff_getElem?]
    refine ⟨j - (n + 1), ?_⟩
    rw [List.getElem?_take_of_lt (by omega), List.getElem?_drop,
      show n + 1 + (j - (n + 1)) = j by omega, hq]
  · intro h q hq
    obtain ⟨i, hi⟩ := List.mem_iff_getElem?.mp hq
    have hlt : i < l - 1 := by
      have := (List.getElem?_eq_some_iff.mp hi).1
      rw [List.length_take] at this
      omega
    rw [List.getElem?_take_of_lt hlt, List.getElem?_drop] at hi
    exact h (n + 1 + i) q (by omega) (by omega) hi

/-- What the host reads in cycle `n + L - 1` (70 R194). -/
theorem response_after_latency {n : Nat} {s u : State} (hs : Ready s) (hpos : 0 < s.params.latency)
    (h : after (n + s.params.latency) s = some u) :
    u.response = if noReset ((s.inputs.drop (n + 1)).take (s.params.latency - 1)) then
      s.inputs[n]?.bind InPorts.answer else none := by
  have hsplit : n + s.params.latency = n + (s.params.latency - 1) + 1 := by omega
  rw [hsplit] at h
  rw [response_of_after hs hpos h, responseAt_of_edge hs (by omega) h]

end Sys2Proof.Machine

/-! The end of a run (70_reset_and_hazards.md R200), and a held reset (R191, R192). -/

namespace Sys2Proof.Machine

open Sys2Proof.Claims

theorem waiting_eq_none_iff (s : State) :
    (∀ r ∈ s.waiting, r = none) ↔ ∀ st ∈ s.stages.dropLast, st.v = false := by
  simp only [State.waiting, List.mem_reverse, List.forall_mem_map, stage_response_eq_none_iff]

/-- A run has ended when no request comes and nothing waits behind the outputs. -/
theorem runEnded_iff_waiting (s : State) :
    s.runEnded = true ↔ noRequest s.inputs = true ∧ ∀ r ∈ s.waiting, r = none := by
  rw [waiting_eq_none_iff]
  simp [State.runEnded]

/-- A run has ended when no request comes and no stage before the last one holds a response. -/
theorem runEnded_iff_responseAt {s : State} (hs : Ready s) :
    s.runEnded = true ↔ noRequest s.inputs = true ∧
      ∀ k, k + 1 < s.params.latency → s.responseAt k = none := by
  have hstages (k : Nat) (hk : k + 1 < s.params.latency) :
      s.stages.dropLast[k]? = s.stages[k]? := by
    rw [List.getElem?_dropLast, if_pos (by rw [hs.2]; omega)]
  rw [runEnded_iff_waiting, waiting_eq_none_iff]
  refine and_congr_right fun _ => ⟨fun h k hk => ?_, fun h st hst => ?_⟩
  · rw [State.responseAt, Option.bind_eq_none_iff, ← hstages k hk]
    exact fun st hst => (stage_response_eq_none_iff st).mpr (h st (List.mem_of_getElem? hst))
  · obtain ⟨k, hk⟩ := List.mem_iff_getElem?.mp hst
    have hlt : k + 1 < s.params.latency := by
      have := (List.getElem?_eq_some_iff.mp hk).1
      rw [List.length_dropLast, hs.2] at this
      omega
    rw [hstages k hlt] at hk
    simpa [State.responseAt, hk, stage_response_eq_none_iff] using h k hlt

theorem nextAnswer_of_noRequest {s : State} (h : noRequest s.inputs = true) :
    s.nextAnswer = none := by
  rw [State.nextAnswer, Option.bind_eq_none_iff]
  intro p hp
  have hnone := (noRequest_iff _).mp h p (List.mem_of_head? hp)
  rw [← portsAnswer_isSome_iff] at hnone
  simpa using hnone

theorem noRequest_tail {inputs : List InPorts} (h : noRequest inputs = true) :
    noRequest inputs.tail = true :=
  (noRequest_iff _).mpr fun p hp => (noRequest_iff _).mp h p (List.mem_of_mem_tail hp)

theorem runEnded_resetEdge {s : State} (h : noRequest s.inputs = true) :
    s.resetEdge.runEnded = true :=
  (runEnded_iff_responseAt (ready_resetEdge s)).mpr ⟨h, fun k _ => responseAt_resetEdge s k⟩

/-- The cycle after the end of a run presents nothing, and the run stays ended. -/
theorem step_of_runEnded {s t : State} (hs : Ready s) (hend : s.runEnded = true)
    (h : step s = .next t) : t.response = none ∧ t.runEnded = true := by
  obtain ⟨hrequest, hwait⟩ := (runEnded_iff_waiting s).mp hend
  rcases step_reset_or_answers h with ⟨-, rfl⟩ | ⟨-, hin, e, hshift, hanswer⟩
  · exact ⟨response_of_silent (resetEdge_out_valid _), runEnded_resetEdge (noRequest_tail hrequest)⟩
  · have hnone : ∀ r ∈ t.response :: t.waiting, r = none := by
      rw [response_cons_waiting hs hshift, hanswer, nextAnswer_of_noRequest hrequest,
        List.forall_mem_append, List.forall_mem_singleton]
      exact ⟨hwait, rfl⟩
    obtain ⟨hresponse, hwaiting⟩ := List.forall_mem_cons.mp hnone
    exact ⟨hresponse, (runEnded_iff_waiting t).mpr ⟨hin ▸ noRequest_tail hrequest, hwaiting⟩⟩

/-- Nothing is presented after the end of a run (70 R200). -/
theorem responses_of_runEnded {s : State} (hs : Ready s) (hend : s.runEnded = true) (k : Nat) :
    responses k s = [] := by
  induction k generalizing s with
  | zero => rfl
  | succ k ih =>
    obtain ⟨t, hstep⟩ := step_next s
    obtain ⟨hnone, hend'⟩ := step_of_runEnded hs hend hstep
    rw [responses_succ hstep, hnone, ih (ready_of_step hs hstep) hend']
    rfl

/-- In cycle `n + L - 1`, for the last edge `n` of a stream, the run has ended: every stage before the
last holds what entered after the stream was over. -/
theorem runEnded_of_lastResponse {s : State} {pre : List InPorts} {p : InPorts} (hs : Ready s)
    (hin : s.inputs = pre ++ [p]) :
    ∃ t, after (pre.length + max s.params.latency 1) s = some t ∧ t.runEnded = true := by
  obtain ⟨t, ht⟩ := exists_after (pre.length + max s.params.latency 1) s
  have hlen : s.inputs.length = pre.length + 1 := by
    rw [hin, List.length_append, List.length_singleton]
  refine ⟨t, ht, (runEnded_iff_responseAt (ready_of_after hs ht)).mpr ⟨?_, fun k hk => ?_⟩⟩
  · rw [inputs_of_after ht, List.drop_eq_nil_of_le (by omega)]
    rfl
  · rw [params_of_after ht] at hk
    obtain ⟨n, hn⟩ : ∃ n, pre.length + max s.params.latency 1 = n + k + 1 :=
      ⟨pre.length + max s.params.latency 1 - (k + 1), by omega⟩
    rw [responseAt_of_edge hs (by omega) (hn ▸ ht), List.getElem?_eq_none (by omega)]
    simp

/-- Before that cycle the last request is still to come, or its response waits behind the
outputs. -/
theorem not_runEnded_of_lastRequest {j : Nat} {s u : State} {pre : List InPorts} {p : InPorts}
    (hs : Ready s) (hin : s.inputs = pre ++ [p]) (hp : accepts p)
    (hj : j < pre.length + max s.params.latency 1) (hu : after j s = some u) :
    u.runEnded = false := by
  rw [← Bool.not_eq_true, runEnded_iff_responseAt (ready_of_after hs hu), inputs_of_after hu,
    params_of_after hu]
  rintro ⟨hrequest, hstages⟩
  rcases Nat.lt_or_ge pre.length j with hlate | hearly
  · obtain ⟨k, rfl⟩ := Nat.exists_eq_add_of_lt hlate
    have hnone := hstages k (by omega)
    rw [responseAt_of_edge hs (by omega) hu, hin,
      List.drop_eq_nil_of_le (by rw [List.length_append, List.length_singleton])] at hnone
    simp [noReset, answer_of_accepts hp] at hnone
  · apply (noRequest_iff _).mp hrequest p _ hp
    rw [hin, List.drop_append_of_le_length hearly]
    exact List.mem_append_right _ (List.mem_singleton_self p)

/-- Holding reset on a cleared block keeps it cleared (70 R192). -/
theorem after_resets {resets rest : List InPorts} {s : State} (hs : Cleared s)
    (hin : s.inputs = resets ++ rest) (hrst : ∀ p ∈ resets, p.rst = true) :
    ∃ t, after resets.length s = some t ∧ Cleared t ∧ t.inputs = rest ∧ t.params = s.params ∧
      t.faults = s.faults := by
  induction resets generalizing s with
  | nil => exact ⟨s, rfl, hs, hin, rfl, rfl⟩
  | cons p resets ih =>
    obtain ⟨hp, hresets⟩ := List.forall_mem_cons.mp hrst
    have hstep := step_reset_cons hin hp
    rw [List.length_cons, after_succ hstep]
    exact ih (s := State.resetEdge { s with inputs := resets ++ rest }) (cleared_resetEdge _) rfl
      hresets

end Sys2Proof.Machine

/-! The statements about reset, latency and the end of a run (70_reset_and_hazards.md). -/

namespace Sys2Proof.Proofs

open Sys2Proof.Machine Sys2Proof.Claims

/-- Settles O55: the edge shifts the pipeline, and the last stage in cycle `n + L - 1` holds the answer
to edge `n` unless a reset edge has come since. -/
theorem responsesComeAfterTheLatency : Obligations.ResponsesComeAfterTheLatency := by
  unfold Obligations.ResponsesComeAfterTheLatency
  refine ⟨fun s t hs hpos hrst hstep => ?_, fun s n hs hpos => ?_⟩
  · obtain ⟨-, -, e, hshift, hanswer⟩ := (step_reset_or_answers hstep).resolve_left
      (by simp [sample_rst_eq_false hrst])
    refine ⟨fun k hk => ?_, ⟨e, ?_, ?_⟩, fun k last hlat hlast => ?_⟩
    · rw [hshift.stages, shiftIn_stage_succ e hs.1 hk]
    · rw [hshift.stages, shiftIn_stage_zero e hs.1 hpos]
    · rw [stage_valid_eq_isSome, hanswer, nextAnswer_isSome_iff]
    · apply driven_of_step hstep
      rw [getLast?_stages (ready_of_step hs hstep), hshift.params, hlat, Nat.add_sub_cancel, hlast]
  · obtain ⟨u, hu⟩ := exists_after (n + s.params.latency) s
    have hresponse := response_after_latency hs hpos hu
    have hreset := (ready_of_after hs hu).1
    refine ⟨u.out, observe_getElem? (by omega) ?_, ?_, fun p hp hvalid => ?_⟩
    · rwa [show n + s.params.latency - 1 + 1 = n + s.params.latency by omega]
    · rw [out_valid_eq_isSome hreset, hresponse, ← noReset_window_iff, ← answerAt_isSome_iff]
      split <;> simp [*]
    · apply onPorts_of_response hreset
      rw [out_valid_eq_isSome hreset, hresponse] at hvalid
      rw [hresponse]
      split at hvalid
      case isTrue hwindow =>
        rw [hp, Option.bind_some, portsAnswer_isSome_iff] at hvalid
        rw [if_pos hwindow, hp, Option.bind_some, answer_of_accepts hvalid]
      case isFalse => cases hvalid

/-- Settles O46: each of the three edges answers a next state. -/
theorem everyStepAnswersANextState : Obligations.EveryStepAnswersANextState := step_next

/-- Settles O50: the reset edge leaves a block whose run has ended if no request follows. -/
theorem resetEdgeClearsAndDiscards : Obligations.ResetEdgeClearsAndDiscards := by
  unfold Obligations.ResetEdgeClearsAndDiscards
  intro s p rest hin hp
  have hstep := step_reset_cons hin hp
  refine ⟨⟨_, hstep, cleared_resetEdge _, rfl, rfl, rfl⟩, fun hrequest k => ?_⟩
  cases k with
  | zero => rfl
  | succ k =>
    rw [responses_succ hstep, response_of_silent (resetEdge_out_valid _),
      responses_of_runEnded (ready_resetEdge _) (runEnded_resetEdge hrequest)]
    rfl

/-- Settles O51: the first reset edge clears the block, the others keep it cleared. -/
theorem holdingResetChangesNothing : Obligations.HoldingResetChangesNothing := by
  unfold Obligations.HoldingResetChangesNothing
  intro s resets rest hin hne hrst
  cases resets with
  | nil => exact absurd rfl hne
  | cons p resets =>
    obtain ⟨hp, hresets⟩ := List.forall_mem_cons.mp hrst
    have hstep := step_reset_cons hin hp
    obtain ⟨t, hafter, hcleared, hinputs, hparams, hfaults⟩ :=
      after_resets (cleared_resetEdge { s with inputs := resets ++ rest }) rfl hresets
    exact ⟨t, (after_succ hstep _).trans hafter, hcleared, hinputs, hparams, hfaults,
      fun q later hrest hq => step_request (hinputs.trans hrest) hq⟩

/-- Settles O53: a reset edge clears the block and reaches the invariant from every state. -/
theorem firstResetAfterPowerUpClears : Obligations.FirstResetAfterPowerUpClears := by
  unfold Obligations.FirstResetAfterPowerUpClears
  intro params p rest hp
  exact ⟨_, step_reset_cons rfl hp, cleared_resetEdge _, inv_resetEdge _, rfl, rfl, rfl, rfl⟩

/-- Settles O54: with no stage, what the host reads is the answer to the same cycle's inputs. -/
theorem zeroLatencyIsCombinational : Obligations.ZeroLatencyIsCombinational := by
  unfold Obligations.ZeroLatencyIsCombinational
  intro s p rest hr hlat hin
  obtain ⟨t, hstep⟩ := step_next s
  have hreset := wasReset_of_step hr hstep
  obtain ⟨hstages, hresponse⟩ := step_of_zero_latency hr hlat hin hstep
  refine ⟨t, hstep, ?_, fun hvalid => ?_, hstages⟩
  · rw [out_valid_eq_isSome hreset, hresponse, Bool.eq_iff_iff, portsAnswer_isSome_iff]
    simp [accepts, and_comm]
  · rw [out_valid_eq_isSome hreset, hresponse, portsAnswer_isSome_iff] at hvalid
    exact onPorts_of_response hreset (hresponse.trans (answer_of_accepts hvalid))

/-- Settles O58: before edge `n` the last request is in the stream, up to cycle `n + L - 2` in a stage
behind the outputs, and in cycle `n + L - 1` only idle edges have come behind it. -/
theorem runEndsWithTheLastResponse : Obligations.RunEndsWithTheLastResponse := by
  unfold Obligations.RunEndsWithTheLastResponse
  exact ⟨fun s pre p hs hin _ hp => ⟨runEnded_of_lastResponse hs hin,
    fun j u => not_runEnded_of_lastRequest hs hin hp⟩,
    fun s hs hend k => responses_of_runEnded hs hend k⟩

/-- Settles O47: the edge samples a request, and the word placed at the next edge is one. -/
theorem stepRunsTheDecodedRequest : Obligations.StepRunsTheDecodedRequest := by
  unfold Obligations.StepRunsTheDecodedRequest
  refine ⟨fun s p rest hin hp => step_request hin hp, fun s w => ?_⟩
  have hword : BitVec.ofNat 36 (w.toNat % 2 ^ 40) = w := by
    rw [Nat.mod_eq_of_lt (by omega), BitVec.ofNat_toNat, BitVec.setWidth_eq]
  have hin : (s.withFetchWord 40 w.toNat).inputs = requestPorts w :: s.inputs.tail := by
    rw [withFetchWord_inputs, hword]
  rw [step_request hin ⟨rfl, rfl⟩, requestPorts, request_fields]
  rfl

end Sys2Proof.Proofs
